-- ==== Sys2Proof/Word.lean ====
section
/-! DEFINITION. The value types of the engine: bytes, byte sequences and the 64-bit words of the two ports
(spec/00_scope.md R11 to R13). -/

namespace Sys2Proof

/-- One 8-bit value (R13). -/
abbrev Byte := BitVec 8

/-- A finite sequence of bytes, in port order (R13, R53). -/
abbrev Bytes := List Byte

/-- A command or response word, 64 bits (R11). -/
abbrev Word := BitVec 64

end Sys2Proof
end

