-- ==== Sys2Proof/Syntax.lean ====
section
/-! DEFINITION. The commands of the engine: what the command port carries (spec/20_memory.md R51), one constructor of
`Instr` for each row of the opcode map (spec/30_encoding.md R75), and the assembler's lines and pseudo-instructions
(R78, R79). -/

namespace Sys2Proof

/-- A command as the port carries it: one 64-bit word and one byte block of any length (R51, R70). -/
structure Command where
  word : Word
  block : Bytes
deriving DecidableEq, Repr

/-- A command with its operands (R75). Operand fields keep the width they have in the command word; the flag operands are
the named bits of `F`. -/
inductive Instr where
  /-- NOP (R100). -/
  | nop
  /-- RESET (R101). -/
  | reset
  /-- DLC.CEIL: `W` = n (R114). -/
  | dlcCeil (n : BitVec 32)
  /-- PAD.REQ: `A` = M, `W` = n (R115). -/
  | padReq (m : Byte) (n : BitVec 32)
  /-- CRC.INIT (R122). -/
  | crcInit
  /-- CRC.ADDB: `A` = the byte (R123). -/
  | crcAddb (b : Byte)
  /-- CRC.ADD: the block (R124). -/
  | crcAdd (d : Bytes)
  /-- CRC.READ (R125). -/
  | crcRead
  /-- TAIL.ENC: `F[0]` = SOT, `F[1]` = EOT, `F[2]` = TGL, `W` = tid (R143). -/
  | tailEnc (sot eot tgl : Bool) (tid : BitVec 32)
  /-- TAIL.DEC: `A` = the tail byte (R144). -/
  | tailDec (t : Byte)
  /-- RF.START: `W` = C (R151). -/
  | rfStart (c : BitVec 32)
  /-- RF.PUSH: the block (R152). -/
  | rfPush (d : Bytes)
  /-- RF.END (R153). -/
  | rfEnd
  /-- RF.NEXT (R154). -/
  | rfNext
  /-- SER.START: `A` = M, `B` = tid, `F[0]` = loopback, `W` = identifier (R175). -/
  | serStart (m tid : Byte) (lb : Bool) (ident : BitVec 32)
  /-- SER.FRAG: the block (R176). -/
  | serFrag (d : Bytes)
  /-- SER.SEAL (R177). -/
  | serSeal
  /-- SER.NEXT (R178). -/
  | serNext
  /-- SER.ABORT (R179). -/
  | serAbort
  /-- RX.FEED: `A` = slot, the block = the frame's wire payload (R201). -/
  | rxFeed (slot : Byte) (w : Bytes)
  /-- RX.RESET: `A` = slot (R210). -/
  | rxReset (slot : Byte)
  /-- RX.STATE: `A` = slot (R211). -/
  | rxState (slot : Byte)
deriving DecidableEq, Repr

/-- The mnemonics of the opcode map (R75). -/
inductive Mnemonic where
  | nop | reset
  | dlcCeil | padReq
  | crcInit | crcAddb | crcAdd | crcRead
  | tailEnc | tailDec
  | rfStart | rfPush | rfEnd | rfNext
  | serStart | serFrag | serSeal | serNext | serAbort
  | rxFeed | rxReset | rxState
deriving DecidableEq, Repr

/-- Why the decoder answers no instruction: the one illegal encoding is an unassigned `OPC` (R76). -/
inductive DecodeError where
  | illegalOpcode (opc : Byte)
deriving DecidableEq, Repr

/-- One lexical element of a line of assembly (R78). -/
inductive AsmToken where
  /-- A mnemonic: capital letters and dots. -/
  | name (text : List Char)
  /-- A number, decimal or `0x` hex. -/
  | num (n : Nat)
  /-- A comma. -/
  | comma
  /-- The brace that opens a block literal. -/
  | blockOpen
  /-- The brace that closes one. -/
  | blockClose
  /-- A double-quoted ASCII string, as its bytes. -/
  | text (b : Bytes)
deriving DecidableEq, Repr

/-- One line of assembly for a command (R78), its characters read: the mnemonic, the numbers in the order of the syntax column,
and the block literal where one stands. -/
structure AsmLine where
  mn : Mnemonic
  ops : List Nat
  block : Option Bytes
deriving DecidableEq, Repr

/-- The pseudo-instructions of R79. -/
inductive Pseudo where
  /-- `CRC.OF {block}`. -/
  | crcOf (d : Bytes)
  /-- `SER.SEND m, tid, lb, id, {f0}, ..., {fk}`. -/
  | serSend (m tid : Byte) (lb : Bool) (ident : BitVec 32) (frags : List Bytes)
  /-- `RF.RUN c, {b0}, ..., {bk}`. -/
  | rfRun (c : BitVec 32) (bufs : List Bytes)
deriving DecidableEq, Repr

end Sys2Proof
end

