-- ==== Sys2Proof/Decode.lean ====
section
/-! DEFINITION. The decoder, total on every command, and the encoder beside it (spec/30_encoding.md R70 to R76). -/

namespace Sys2Proof

/-! ### The fields of the command word `C64` (R71) -/

/-- `OPC`, bits [7:0]. -/
def fieldOpc (w : Word) : Byte := w.extractLsb' 0 8
/-- `A`, bits [15:8]. -/
def fieldA (w : Word) : Byte := w.extractLsb' 8 8
/-- `B`, bits [23:16]. -/
def fieldB (w : Word) : Byte := w.extractLsb' 16 8
/-- `F`, bits [31:24]. -/
def fieldF (w : Word) : Byte := w.extractLsb' 24 8
/-- `W`, bits [63:32]. -/
def fieldW (w : Word) : BitVec 32 := w.extractLsb' 32 32
/-- `F[i]`, which is word bit `24 + i`. -/
def flagF (w : Word) (i : Nat) : Bool := (fieldF w).getLsbD i

/-- The word's value, `OPC | A << 8 | B << 16 | F << 24 | W << 32` (R71). -/
def packWord (opc a b f : Byte) (w : BitVec 32) : Word :=
  opc.setWidth 64 ||| a.setWidth 64 <<< 8 ||| b.setWidth 64 <<< 16 ||| f.setWidth 64 <<< 24 ||| w.setWidth 64 <<< 32

/-- One flag as bit `i` of an `F` or `RF` byte (R71, R72). -/
def flagBit (x : Bool) (i : Nat) : Byte := (BitVec.ofBool x).setWidth 8 <<< i

/-! ### The opcode map (R75) -/

/-- The opcode map, row by row as R75 lists it. -/
def opcodeMap : List (Byte × Mnemonic) :=
  [ (0x00, .nop), (0x01, .reset),
    (0x10, .dlcCeil), (0x11, .padReq),
    (0x20, .crcInit), (0x21, .crcAddb), (0x22, .crcAdd), (0x23, .crcRead),
    (0x30, .tailEnc), (0x31, .tailDec),
    (0x40, .rfStart), (0x41, .rfPush), (0x42, .rfEnd), (0x43, .rfNext),
    (0x50, .serStart), (0x51, .serFrag), (0x52, .serSeal), (0x53, .serNext), (0x54, .serAbort),
    (0x60, .rxFeed), (0x61, .rxReset), (0x62, .rxState) ]

/-- The command that `OPC` selects, if the value is assigned (R75, R76). -/
def mnemonicOf (opc : Byte) : Option Mnemonic :=
  (opcodeMap.find? fun row => row.1 == opc).map fun row => row.2

/-- The `OPC` value of a command (R75). -/
def opcodeOf : Mnemonic → Byte
  | .nop => 0x00
  | .reset => 0x01
  | .dlcCeil => 0x10
  | .padReq => 0x11
  | .crcInit => 0x20
  | .crcAddb => 0x21
  | .crcAdd => 0x22
  | .crcRead => 0x23
  | .tailEnc => 0x30
  | .tailDec => 0x31
  | .rfStart => 0x40
  | .rfPush => 0x41
  | .rfEnd => 0x42
  | .rfNext => 0x43
  | .serStart => 0x50
  | .serFrag => 0x51
  | .serSeal => 0x52
  | .serNext => 0x53
  | .serAbort => 0x54
  | .rxFeed => 0x60
  | .rxReset => 0x61
  | .rxState => 0x62

/-! ### Decoding -/

/-- The operands a command reads from its fields (R73, R75); every other field, and the block of a command that takes none,
is ignored (R74). -/
def readOperands (c : Command) : Mnemonic → Instr
  | .nop => .nop
  | .reset => .reset
  | .dlcCeil => .dlcCeil (fieldW c.word)
  | .padReq => .padReq (fieldA c.word) (fieldW c.word)
  | .crcInit => .crcInit
  | .crcAddb => .crcAddb (fieldA c.word)
  | .crcAdd => .crcAdd c.block
  | .crcRead => .crcRead
  | .tailEnc => .tailEnc (flagF c.word 0) (flagF c.word 1) (flagF c.word 2) (fieldW c.word)
  | .tailDec => .tailDec (fieldA c.word)
  | .rfStart => .rfStart (fieldW c.word)
  | .rfPush => .rfPush c.block
  | .rfEnd => .rfEnd
  | .rfNext => .rfNext
  | .serStart => .serStart (fieldA c.word) (fieldB c.word) (flagF c.word 0) (fieldW c.word)
  | .serFrag => .serFrag c.block
  | .serSeal => .serSeal
  | .serNext => .serNext
  | .serAbort => .serAbort
  | .rxFeed => .rxFeed (fieldA c.word) c.block
  | .rxReset => .rxReset (fieldA c.word)
  | .rxState => .rxState (fieldA c.word)

/-- Decoding: only `OPC` selects the command (R75), and an unassigned value is rejected by name (R76). -/
def decode (c : Command) : Except DecodeError Instr :=
  match mnemonicOf (fieldOpc c.word) with
  | some mn => .ok (readOperands c mn)
  | none => .error (.illegalOpcode (fieldOpc c.word))

/-! ### Encoding -/

/-- The mnemonic of an instruction (R75). -/
def mnemonic : Instr → Mnemonic
  | .nop => .nop
  | .reset => .reset
  | .dlcCeil _ => .dlcCeil
  | .padReq _ _ => .padReq
  | .crcInit => .crcInit
  | .crcAddb _ => .crcAddb
  | .crcAdd _ => .crcAdd
  | .crcRead => .crcRead
  | .tailEnc _ _ _ _ => .tailEnc
  | .tailDec _ => .tailDec
  | .rfStart _ => .rfStart
  | .rfPush _ => .rfPush
  | .rfEnd => .rfEnd
  | .rfNext => .rfNext
  | .serStart _ _ _ _ => .serStart
  | .serFrag _ => .serFrag
  | .serSeal => .serSeal
  | .serNext => .serNext
  | .serAbort => .serAbort
  | .rxFeed _ _ => .rxFeed
  | .rxReset _ => .rxReset
  | .rxState _ => .rxState

/-- The command of an instruction: its operands in their fields (R73, R75), every reserved field 0 and no stray block, as
R74 asks of software. -/
def encode (i : Instr) : Command :=
  let op := opcodeOf (mnemonic i)
  match i with
  | .nop => ⟨packWord op 0 0 0 0, []⟩
  | .reset => ⟨packWord op 0 0 0 0, []⟩
  | .dlcCeil n => ⟨packWord op 0 0 0 n, []⟩
  | .padReq m n => ⟨packWord op m 0 0 n, []⟩
  | .crcInit => ⟨packWord op 0 0 0 0, []⟩
  | .crcAddb b => ⟨packWord op b 0 0 0, []⟩
  | .crcAdd d => ⟨packWord op 0 0 0 0, d⟩
  | .crcRead => ⟨packWord op 0 0 0 0, []⟩
  | .tailEnc sot eot tgl tid => ⟨packWord op 0 0 (flagBit sot 0 ||| flagBit eot 1 ||| flagBit tgl 2) tid, []⟩
  | .tailDec t => ⟨packWord op t 0 0 0, []⟩
  | .rfStart c => ⟨packWord op 0 0 0 c, []⟩
  | .rfPush d => ⟨packWord op 0 0 0 0, d⟩
  | .rfEnd => ⟨packWord op 0 0 0 0, []⟩
  | .rfNext => ⟨packWord op 0 0 0 0, []⟩
  | .serStart m tid lb ident => ⟨packWord op m tid (flagBit lb 0) ident, []⟩
  | .serFrag d => ⟨packWord op 0 0 0 0, d⟩
  | .serSeal => ⟨packWord op 0 0 0 0, []⟩
  | .serNext => ⟨packWord op 0 0 0 0, []⟩
  | .serAbort => ⟨packWord op 0 0 0 0, []⟩
  | .rxFeed slot w => ⟨packWord op slot 0 0 0, w⟩
  | .rxReset slot => ⟨packWord op slot 0 0 0, []⟩
  | .rxState slot => ⟨packWord op slot 0 0 0, []⟩

/-! ### The words of the opcode table -/

/-- The command whose word has the value `w` in its low `nbits` bits and 0 above, with an empty block: the table gives a
block no bits (log 11). -/
def tableCommand (nbits w : Nat) : Command := ⟨BitVec.ofNat 64 (w % 2 ^ nbits), []⟩

/-- What the decoder reads from a word of the opcode table. -/
def decodeTableWord (nbits w : Nat) : Option Instr :=
  match decode (tableCommand nbits w) with
  | .ok i => some i
  | .error _ => none

end Sys2Proof
end

