-- ==== Sys2Proof/Config.lean ====
section
/-! DEFINITION. The implementation parameters of spec/00_scope.md R10, which the machine takes as arguments.
No free value is needed: the spec settles every value (spec/93_implementation_defined.md). -/

namespace Sys2Proof

/-- A capacity of R10: a number of bytes, or unbounded (`∞`, the source's own behaviour). -/
inductive Capacity where
  | unbounded
  | bytes (n : Nat)
deriving DecidableEq, Repr

/-- The legal values of a capacity: at least 1, or unbounded (R10). -/
def Capacity.legal : Capacity → Bool
  | .unbounded => true
  | .bytes n => decide (1 ≤ n)

/-- The named parameters of R10. -/
structure Params where
  /-- `NSESS`: number of reassembler session slots. -/
  nsess : Nat
  /-- `TX_CAP`: most payload bytes one serializer transfer may collect. -/
  txCap : Capacity
  /-- `RF_CAP`: most bytes the refragmenter queue may hold. -/
  rfCap : Capacity
  /-- `RX_CAP`: most bytes one slot's buffer may hold. -/
  rxCap : Capacity
deriving DecidableEq, Repr

/-- The legal parameter values of R10: `NSESS` in 1..256, each capacity at least 1 or unbounded. -/
def Params.legal (p : Params) : Bool :=
  decide (1 ≤ p.nsess) && decide (p.nsess ≤ 256) && p.txCap.legal && p.rfCap.legal && p.rxCap.legal

/-- DESIGN CHOICE (log 3), unsafe to lean on: the parameters of `State.reset`, which the spec leaves open. They are the
ones the vectors of spec/95_test_vectors.md are written for. Statements are made for every value of the parameters. -/
def Params.standard : Params :=
  { nsess := 4, txCap := .unbounded, rfCap := .unbounded, rxCap := .unbounded }

/-- The open parameter `WORD_BYTE_ORDER` (spec/20_memory.md R56): the order in which a port narrower than a word carries
the word's bytes. No rule depends on it (log 7). -/
inductive WordByteOrder where
  | little
  | big
deriving DecidableEq, Repr

end Sys2Proof
end

