-- ==== Sys2Proof/Machine/State.lean ====
section
/-! DEFINITION. The state of the engine: the registers of spec/10_state.md R24 to R33, and nothing else of the spec's (R20),
beside the parameters and the two ports, which are the model's own fields (log 1 to 3). -/

namespace Sys2Proof.Machine

/-- `SER.PHASE` (R25): IDLE = 0, COLLECT = 1, EMIT = 2; the value 3 is never held (log 4). -/
inductive SerPhase where
  | idle
  | collect
  | emit
deriving DecidableEq, Repr

/-- `RF.PHASE` (R28): IDLE = 0, OPEN = 1, ENDED = 2; the value 3 is never held (log 4). -/
inductive RfPhase where
  | idle
  | opened
  | ended
deriving DecidableEq, Repr

/-- `RX[s].PHASE` (R32): IDLE = 0, ACCUMULATING = 1. -/
inductive RxPhase where
  | idle
  | accumulating
deriving DecidableEq, Repr

/-- The serializer's registers (R25 to R27). -/
structure Ser where
  /-- `SER.PHASE`. -/
  phase : SerPhase
  /-- `SER.M`: data bytes per frame, the tail byte excluded. -/
  m : BitVec 8
  /-- `SER.TID`: the transfer id as given. -/
  tid : BitVec 8
  /-- `SER.ID`: the opaque identifier. -/
  ident : BitVec 32
  /-- `SER.LB`: the loopback marker. -/
  lb : Bool
  /-- `SER.P`: the collected payload. -/
  payload : Bytes
  /-- `SER.S`: the stream the frames are cut from. -/
  stream : Bytes
  /-- `SER.N`: the number of frames. -/
  n : Nat
  /-- `SER.K`: the index of the next frame. -/
  k : Nat
deriving DecidableEq, Repr

/-- The standalone refragmenter's registers (R28 to R30). -/
structure Rf where
  /-- `RF.PHASE`. -/
  phase : RfPhase
  /-- `RF.C`: the chunk length. -/
  c : BitVec 32
  /-- `RF.Q`: the bytes pushed and not yet emitted. -/
  q : Bytes
deriving DecidableEq, Repr

/-- One slot of the session file (R31, R32). -/
structure RxSlot where
  /-- `RX[s].PHASE`. -/
  phase : RxPhase
  /-- `RX[s].TID`: the 5-bit transfer id of the reception last begun. -/
  tid : BitVec 5
  /-- `RX[s].EXP`: the toggle the next continuation frame must carry. -/
  exp : Bool
  /-- `RX[s].BUF`: the data bytes received so far. -/
  buf : Bytes
deriving DecidableEq, Repr

/-- A response as the port carries it: one 64-bit word and one byte block (R51, R72). -/
structure Response where
  word : Word
  block : Bytes
deriving DecidableEq, Repr

/-- The whole state. -/
structure State where
  /-- The parameters of R10, which no step changes (log 3). -/
  params : Params
  /-- `CRC` (R24). -/
  crc : BitVec 16
  /-- The serializer (R25 to R27). -/
  ser : Ser
  /-- The refragmenter (R28 to R30). -/
  rf : Rf
  /-- The session file, slot `s` at index `s` (R31, R32). -/
  rx : List RxSlot
  /-- The commands waiting at the command port, oldest first (R51, R63; log 1). -/
  cmds : List Command
  /-- The responses that have left the response port, oldest first (R51, R63; log 2). -/
  resps : List Response
deriving DecidableEq, Repr

/-- The reasons the engine stops with a fault: there is none. "The engine never traps, never vectors and never stops" (R230);
every condition is a status in a response. -/
inductive Fault where
deriving DecidableEq, Repr

/-- The reasons the model answers nothing for an instruction. -/
inductive Refusal where
  /-- Raised by `exec` alone, for a row of the opcode table that has no meaning yet. Safe: the model stops where the engine
  would go on. No arm raises it: every row has its meaning. -/
  | notModelled (mnemonic : String)
deriving DecidableEq, Repr

/-- The status codes (R77). -/
inductive Status where
  | ok
  | delivered
  | exhausted
  | notReady
  | orphan
  | emptyFrame
  | invalidConfiguration
  | toggleViolation
  | transferIdMismatch
  | crcMismatch
  | capacityExceeded
  | illegalCommand
  | badOperand
  | sequenceError
deriving DecidableEq, Repr

/-- The arguments of the pseudocode's `respond`: an omitted field is 0 and an omitted block is `[]` (R14). -/
structure Reply where
  st : Status
  ra : Byte := 0
  rb : Byte := 0
  rf : Byte := 0
  rw : BitVec 32 := 0
  d : Bytes := []
deriving DecidableEq, Repr

/-- The fields of a tail byte (R140, R141). -/
structure Tail where
  sot : Bool
  eot : Bool
  tgl : Bool
  tid : BitVec 5
deriving DecidableEq, Repr

/-- What SER.SEAL computes (R171): the stream `S`, the frame count `N`, the pad length, and whether the transfer is
single-frame. -/
structure TxStream where
  bytes : Bytes
  frames : Nat
  pad : Nat
  single : Bool
deriving DecidableEq, Repr

/-! ### Reset (spec/70_reset_and_hazards.md R260) -/

/-- The serializer at reset (R260). -/
def Ser.reset : Ser :=
  { phase := .idle, m := 0, tid := 0, ident := 0, lb := false, payload := [], stream := [], n := 0, k := 0 }

/-- The refragmenter at reset (R260). -/
def Rf.reset : Rf := { phase := .idle, c := 0, q := [] }

/-- A slot at reset (R260). -/
def RxSlot.reset : RxSlot := { phase := .idle, tid := 0, exp := false, buf := [] }

/-- The engine right after power-on with the parameters `p`: every register at its value of R260, no command waiting and no
response sent (log 1, log 2). -/
def State.resetWith (p : Params) : State :=
  { params := p, crc := 0xFFFF, ser := Ser.reset, rf := Rf.reset, rx := List.replicate p.nsess RxSlot.reset,
    cmds := [], resps := [] }

/-- The engine right after power-on, with the parameters of log 3. -/
def State.reset : State := State.resetWith Params.standard

end Sys2Proof.Machine
end

