-- ==== Sys2Proof/Machine/Flags.lean ====
section
/-! DEFINITION. The engine has no flags register (spec/10_state.md R22): every outcome is a field of the one response that
reports it. This file holds the numbers of those fields: the status codes (spec/30_encoding.md R77), the result flag bits and
the response word (R72), and the phase codes (spec/10_state.md R32). -/

namespace Sys2Proof.Machine

/-- The `ST` number of a status (R77). -/
def statusCode : Status → Byte
  | .ok => 0x00
  | .delivered => 0x01
  | .exhausted => 0x02
  | .notReady => 0x03
  | .orphan => 0x04
  | .emptyFrame => 0x05
  | .invalidConfiguration => 0x10
  | .toggleViolation => 0x11
  | .transferIdMismatch => 0x12
  | .crcMismatch => 0x13
  | .capacityExceeded => 0x14
  | .illegalCommand => 0x20
  | .badOperand => 0x21
  | .sequenceError => 0x22

/-- The `RF` byte with bits 0 to 3 as given and the others 0 (R72). -/
def resultFlags (b0 b1 b2 b3 : Bool) : Byte := flagBit b0 0 ||| flagBit b1 1 ||| flagBit b2 2 ||| flagBit b3 3

/-- `RX[s].PHASE` as the bit RX.STATE reports: 1 = ACCUMULATING (R32, R211). -/
def rxPhaseBit : RxPhase → Bool
  | .idle => false
  | .accumulating => true

/-- The response word, `ST | RA << 8 | RB << 16 | RF << 24 | RW << 32` (R72). -/
def responseWord (st ra rb rf : Byte) (rw : BitVec 32) : Word :=
  st.setWidth 64 ||| ra.setWidth 64 <<< 8 ||| rb.setWidth 64 <<< 16 ||| rf.setWidth 64 <<< 24 ||| rw.setWidth 64 <<< 32

/-- What the response port carries for a reply (R51, R72). -/
def packReply (r : Reply) : Response :=
  { word := responseWord (statusCode r.st) r.ra r.rb r.rf r.rw, block := r.d }

/-- `ST`, bits [7:0] of a response word (R72). -/
def Response.st (r : Response) : Byte := r.word.extractLsb' 0 8
/-- `RA`, bits [15:8]. -/
def Response.ra (r : Response) : Byte := r.word.extractLsb' 8 8
/-- `RB`, bits [23:16]. -/
def Response.rb (r : Response) : Byte := r.word.extractLsb' 16 8
/-- `RF`, bits [31:24]. -/
def Response.rf (r : Response) : Byte := r.word.extractLsb' 24 8
/-- `RW`, bits [63:32]. -/
def Response.rw (r : Response) : BitVec 32 := r.word.extractLsb' 32 32

end Sys2Proof.Machine
end

