-- ==== Sys2Proof/Machine/Ops.lean ====
section
/-! DEFINITION. The named operations that the meanings share: writing one unit's registers, the slot file, the capacity check,
and the two ways a command ends, `respond` and `raise` (spec/00_scope.md R14). There is no exception to take and none to
return from: `raise` is all the spec has in its place (spec/60_exceptions.md R230, R238). -/

namespace Sys2Proof.Machine

/-! ### Register writes -/

/-- `CRC <- v`. -/
def State.withCrc (s : State) (v : BitVec 16) : State := { s with crc := v }

/-- Write the serializer's registers. -/
def State.withSer (s : State) (v : Ser) : State := { s with ser := v }

/-- Write the refragmenter's registers. -/
def State.withRf (s : State) (v : Rf) : State := { s with rf := v }

/-- `RX[i]`, the slot at index `i`. An index beyond the file, which no command reaches (R31), reads as a reset slot (log 5). -/
def State.slot (s : State) (i : Nat) : RxSlot := s.rx.getD i RxSlot.reset

/-- Write the slot at index `i`; an index beyond the file writes nothing (log 5). -/
def State.withSlot (s : State) (i : Nat) (v : RxSlot) : State := { s with rx := s.rx.set i v }

/-- The reset state of R260 applied to every register; the ports are no registers (R260, R262; log 10). -/
def State.applyReset (s : State) : State := { State.resetWith s.params with cmds := s.cmds, resps := s.resps }

/-! ### Ending a command -/

/-- One response leaves the response port (R51, R63). -/
def State.emit (s : State) (r : Response) : State := { s with resps := s.resps ++ [r] }

/-- `respond`: emit the command's one response and end it (R14, R72). -/
def respond (r : Reply) (s : State) : Host.Outcome State Fault Refusal := .next (s.emit (packReply r))

/-- `raise ST`: respond with that status, every other field 0 and an empty block (R14). State written before it stays
written. -/
def raise (st : Status) (s : State) : Host.Outcome State Fault Refusal := respond { st := st } s

/-! ### Arithmetic and capacities -/

/-- `ceil_div` of R12. -/
def ceilDiv (a b : Nat) : Nat := (a + b - 1) / b

/-- `rep(b, k)` of R13. -/
def rep (b : Byte) (k : Nat) : Bytes := List.replicate k b

/-- A capacity holds `n` bytes (R10). -/
def admits (cap : Capacity) (n : Nat) : Bool :=
  match cap with
  | .unbounded => true
  | .bytes k => decide (n ≤ k)

end Sys2Proof.Machine
end

