-- ==== Sys2Proof/Machine/Crc.lean ====
section
/-! DEFINITION. The CRC function and the CRC unit's commands (spec/42_crc.md). -/

namespace Sys2Proof.Machine

/-- The generator polynomial, the `x^16` term implicit (R120). -/
def crcPoly : BitVec 16 := 0x1021

/-- The initial value (R120). -/
def crcInitial : BitVec 16 := 0xFFFF

/-- One round of `crc_update`: shift left, and add the polynomial where the top bit was 1 (R121). -/
def crcShift (c : BitVec 16) : BitVec 16 := if c.getLsbD 15 then (c <<< 1) ^^^ crcPoly else c <<< 1

/-- `crc_update(c, b)` (R121). -/
def crcUpdate (c : BitVec 16) (b : Byte) : BitVec 16 := Nat.repeat crcShift 8 (c ^^^ (b.setWidth 16 <<< 8))

/-- `crc16(c, xs)`, the fold over the bytes in order (R121). -/
def crc16 (c : BitVec 16) (xs : Bytes) : BitVec 16 := xs.foldl crcUpdate c

/-- `CRC16CCITT(xs)` (R121). -/
def crc16ccitt (xs : Bytes) : BitVec 16 := crc16 crcInitial xs

/-- `digest(c)`, high byte first (R121). -/
def digest (c : BitVec 16) : Bytes := [c.extractLsb' 8 8, c.extractLsb' 0 8]

/-- The two bytes of a transmitted CRC, high byte first (R54, R206). -/
def readDigest (hi lo : Byte) : BitVec 16 := hi.setWidth 16 <<< 8 ||| lo.setWidth 16

/-- CRC.INIT (R122). -/
def execCrcInit (s : State) : Host.Outcome State Fault Refusal := respond { st := .ok } (s.withCrc crcInitial)

/-- CRC.ADDB (R123). -/
def execCrcAddb (b : Byte) (s : State) : Host.Outcome State Fault Refusal :=
  respond { st := .ok } (s.withCrc (crcUpdate s.crc b))

/-- CRC.ADD (R124). -/
def execCrcAdd (d : Bytes) (s : State) : Host.Outcome State Fault Refusal :=
  respond { st := .ok } (s.withCrc (crc16 s.crc d))

/-- CRC.READ (R125): the register in `RW` and its digest in the block; nothing is written. -/
def execCrcRead (s : State) : Host.Outcome State Fault Refusal :=
  respond { st := .ok, rw := s.crc.setWidth 32, d := digest s.crc } s

end Sys2Proof.Machine
end

