-- ==== Sys2Proof/Machine/Dlc.lean ====
section
/-! DEFINITION. The DLC table and the padding calculator, and the commands DLC.CEIL and PAD.REQ
(spec/41_dlc_padding.md). -/

namespace Sys2Proof.Machine

/-- `LEGAL`, the legal frame data lengths, in rising order (R110). -/
def legalLengths : List Nat := [0, 1, 2, 3, 4, 5, 6, 7, 8, 12, 16, 20, 24, 32, 48, 64]

/-- `dlc_ceil(n)`, the least legal length that is at least `n`; no value above 64 (R110). -/
def dlcCeil (n : Nat) : Option Nat := legalLengths.find? fun l => decide (n ≤ l)

/-- `required_padding(n, M)` (R111); 0 where no legal length lies in `[n, M]` (R112). -/
def requiredPadding (n m : Nat) : Nat :=
  match legalLengths.find? fun l => decide (n ≤ l) && decide (l ≤ m) with
  | some l => l - n
  | none => 0

/-- The padding fill byte (R113). -/
def padByte : Byte := 0x55

/-- DLC.CEIL (R114). -/
def execDlcCeil (n : BitVec 32) (s : State) : Host.Outcome State Fault Refusal :=
  match dlcCeil n.toNat with
  | some l => respond { st := .ok, rw := BitVec.ofNat 32 l } s
  | none => raise .badOperand s

/-- PAD.REQ (R115). -/
def execPadReq (m : Byte) (n : BitVec 32) (s : State) : Host.Outcome State Fault Refusal :=
  if m.toNat < n.toNat then raise .badOperand s
  else respond { st := .ok, rw := BitVec.ofNat 32 (requiredPadding n.toNat m.toNat) } s

end Sys2Proof.Machine
end

