-- ==== Sys2Proof/Machine/Tail.lean ====
section
/-! DEFINITION. The tail-byte codec and its commands TAIL.ENC and TAIL.DEC (spec/43_tail_codec.md). -/

namespace Sys2Proof.Machine

/-- `tail_encode` (R140): `(sot << 7) OR (eot << 6) OR (tgl << 5) OR (tid mod 32)`. -/
def tailEncode (sot eot tgl : Bool) (tid : Nat) : Byte :=
  flagBit sot 7 ||| flagBit eot 6 ||| flagBit tgl 5 ||| BitVec.ofNat 8 (tid % 32)

/-- `tail_decode` (R141). -/
def tailDecode (t : Byte) : Tail :=
  { sot := t.getLsbD 7, eot := t.getLsbD 6, tgl := t.getLsbD 5, tid := t.extractLsb' 0 5 }

/-- TAIL.ENC (R143): `RA` is the tail byte. -/
def execTailEnc (sot eot tgl : Bool) (tid : BitVec 32) (s : State) : Host.Outcome State Fault Refusal :=
  respond { st := .ok, ra := tailEncode sot eot tgl tid.toNat } s

/-- TAIL.DEC (R144): `RA` is the transfer id, `RF[0]` = SOT, `RF[1]` = EOT, `RF[2]` = TGL. -/
def execTailDec (t : Byte) (s : State) : Host.Outcome State Fault Refusal :=
  let u := tailDecode t
  respond { st := .ok, ra := u.tid.setWidth 8, rf := resultFlags u.sot u.eot u.tgl false } s

end Sys2Proof.Machine
end

