-- ==== Sys2Proof/Machine/Operands.lean ====
section
/-! DEFINITION. The operand forms that need more than a field of the command word (spec/30_encoding.md R73): a slot index in
range (spec/46_reassembler.md R201) and a received frame split into data and tail (R200). Every other operand is its field of
the word or the block, taken as it stands (Sys2Proof/Decode.lean). -/

namespace Sys2Proof.Machine

/-- The slot operand: the index in `A`, when it names a slot of the file (R31, R201). -/
def slotOperand (s : State) (a : Byte) : Option Nat :=
  if a.toNat < s.params.nsess then some a.toNat else none

/-- The frame operand (R200): the last byte is the tail byte, every earlier byte a data byte; a block of no bytes has no tail
byte. -/
def splitFrame (w : Bytes) : Option (Bytes × Tail) :=
  match w.getLast? with
  | none => none
  | some t => some (w.take (w.length - 1), tailDecode t)

end Sys2Proof.Machine
end

