-- ==== Sys2Proof/Machine/Reassembler.lean ====
section
/-! DEFINITION. The transfer reassembler: the transition of one session slot for one frame, and the commands RX.FEED, RX.RESET
and RX.STATE (spec/46_reassembler.md). -/

namespace Sys2Proof.Machine

/-- The slot after its reception is over: IDLE with an empty buffer; `TID` and `EXP` keep their values (R32, R33). -/
def RxSlot.idled (r : RxSlot) : RxSlot := { r with phase := .idle, buf := [] }

/-- The trailing CRC of a completed buffer verifies (R206); a buffer of fewer than 2 bytes holds none (R208). -/
def crcVerifies (b : Bytes) : Bool :=
  match b.drop (b.length - 2) with
  | [hi, lo] => decide (crc16ccitt (b.take (b.length - 2)) = readDigest hi lo)
  | _ => false

/-- A start-of-transfer frame (R202, R203, R207): it always begins a new reception. `TID` and `EXP` are written before the
capacity check (R14, R201; log 6). -/
def feedStart (cap : Capacity) (r : RxSlot) (d : Bytes) (t : Tail) : RxSlot × Reply :=
  let r' := { r with tid := t.tid, exp := !t.tgl }
  if t.eot then
    (r'.idled, { st := .delivered, ra := t.tid.setWidth 8, rw := BitVec.ofNat 32 d.length, d := d })
  else if !admits cap d.length then (r'.idled, { st := .capacityExceeded })
  else ({ r' with phase := .accumulating, buf := d }, { st := .ok })

/-- The completion of a multi-frame reception with the buffer `b` (R206, R208). -/
def feedComplete (r : RxSlot) (b : Bytes) (t : Tail) : RxSlot × Reply :=
  if crcVerifies b then
    let q := b.take (b.length - 2)
    (r.idled,
      { st := .delivered, ra := t.tid.setWidth 8, rf := resultFlags true false false false,
        rw := BitVec.ofNat 32 q.length, d := q })
  else (r.idled, { st := .crcMismatch })

/-- A continuation frame (R204 to R208), its checks in the order of R236: orphan, transfer id, toggle, capacity, CRC. -/
def feedContinue (cap : Capacity) (r : RxSlot) (d : Bytes) (t : Tail) : RxSlot × Reply :=
  if r.phase = .idle then (r, { st := .orphan })
  else if t.tid ≠ r.tid then (r.idled, { st := .transferIdMismatch })
  else if t.tgl ≠ r.exp then (r.idled, { st := .toggleViolation })
  else if !admits cap (r.buf.length + d.length) then (r.idled, { st := .capacityExceeded })
  else
    let r' := { r with buf := r.buf ++ d, exp := !r.exp }
    if t.eot then feedComplete r' r'.buf t else (r', { st := .ok })

/-- One frame of data bytes `d` and tail `t` against a slot: the slot after it, and the reply (R201). -/
def feedSlot (cap : Capacity) (r : RxSlot) (d : Bytes) (t : Tail) : RxSlot × Reply :=
  if t.sot then feedStart cap r d t else feedContinue cap r d t

/-- RX.FEED (R201). -/
def execRxFeed (slot : Byte) (w : Bytes) (s : State) : Host.Outcome State Fault Refusal :=
  match slotOperand s slot with
  | none => raise .badOperand s
  | some i =>
    match splitFrame w with
    | none => raise .emptyFrame s
    | some (d, t) =>
      let out := feedSlot s.params.rxCap (s.slot i) d t
      respond out.2 (s.withSlot i out.1)

/-- RX.RESET (R210). -/
def execRxReset (slot : Byte) (s : State) : Host.Outcome State Fault Refusal :=
  match slotOperand s slot with
  | none => raise .badOperand s
  | some i => respond { st := .ok } (s.withSlot i RxSlot.reset)

/-- RX.STATE (R211): `RA` = TID, `RF[0]` = PHASE, `RF[2]` = EXP, `RW` = buffer length, the block = the buffer. -/
def execRxState (slot : Byte) (s : State) : Host.Outcome State Fault Refusal :=
  match slotOperand s slot with
  | none => raise .badOperand s
  | some i =>
    let r := s.slot i
    respond
      { st := .ok, ra := r.tid.setWidth 8, rf := resultFlags (rxPhaseBit r.phase) false r.exp false,
        rw := BitVec.ofNat 32 r.buf.length, d := r.buf } s

end Sys2Proof.Machine
end

