-- ==== Sys2Proof/Machine/Refragmenter.lean ====
section
/-! DEFINITION. The chunking function and the standalone refragmenter's commands (spec/44_refragmenter.md). -/

namespace Sys2Proof.Machine

/-- `refrag` with a bound on the number of chunks; `refrag` gives it enough. -/
def refragUpTo : Nat → Bytes → Nat → List Bytes
  | 0, _, _ => []
  | fuel + 1, xs, c =>
    if xs.isEmpty then []
    else if xs.length ≤ c then [xs]
    else xs.take c :: refragUpTo fuel (xs.drop c) c

/-- `refrag(xs, C)` for `C ≥ 1` (R150, R155): full chunks, then the remainder; never an empty chunk. There are at most `|xs|`
chunks. -/
def refrag (xs : Bytes) (c : Nat) : List Bytes := refragUpTo xs.length xs c

/-- RF.START (R151). -/
def execRfStart (c : BitVec 32) (s : State) : Host.Outcome State Fault Refusal :=
  if c = 0 then raise .invalidConfiguration s
  else respond { st := .ok } (s.withRf { phase := .opened, c := c, q := [] })

/-- RF.PUSH (R152). -/
def execRfPush (d : Bytes) (s : State) : Host.Outcome State Fault Refusal :=
  if s.rf.phase ≠ .opened then raise .sequenceError s
  else if !admits s.params.rfCap (s.rf.q.length + d.length) then raise .capacityExceeded s
  else respond { st := .ok } (s.withRf { s.rf with q := s.rf.q ++ d })

/-- RF.END (R153). -/
def execRfEnd (s : State) : Host.Outcome State Fault Refusal :=
  if s.rf.phase ≠ .opened then raise .sequenceError s
  else respond { st := .ok } (s.withRf { s.rf with phase := .ended })

/-- RF.NEXT (R154): a full chunk where one waits, else the shorter final chunk once the input is ended. -/
def execRfNext (s : State) : Host.Outcome State Fault Refusal :=
  let c := s.rf.c.toNat
  if s.rf.phase = .idle then raise .sequenceError s
  else if c ≤ s.rf.q.length then
    let rest := s.rf.q.drop c
    let last := decide (s.rf.phase = .ended) && rest.isEmpty
    respond { st := .ok, rw := s.rf.c, rf := resultFlags last false false false, d := s.rf.q.take c }
      (s.withRf { s.rf with q := rest })
  else if s.rf.phase = .ended then
    if s.rf.q.isEmpty then raise .exhausted s
    else
      respond { st := .ok, rw := BitVec.ofNat 32 s.rf.q.length, rf := resultFlags true false false false, d := s.rf.q }
        (s.withRf { s.rf with q := [] })
  else raise .notReady s

end Sys2Proof.Machine
end

