-- ==== Sys2Proof/Machine/Serializer.lean ====
section
/-! DEFINITION. The transfer serializer: the frame function and the commands SER.START, SER.FRAG, SER.SEAL, SER.NEXT and
SER.ABORT (spec/45_serializer.md). -/

namespace Sys2Proof.Machine

/-- The pad length of a multi-frame transfer of `len` payload bytes (R171). -/
def multiPad (len m : Nat) : Nat :=
  let r := len % m
  if m ≤ r + 2 then 0 else requiredPadding (r + 2) m

/-- `stream(P, M)` for `M ≥ 1` (R170, R171): one frame where the payload fits, else payload, padding and CRC over as many
frames as they take. -/
def txStream (p : Bytes) (m : Nat) : TxStream :=
  if p.length ≤ m then
    let pad := requiredPadding p.length m
    { bytes := p ++ rep padByte pad, frames := 1, pad := pad, single := true }
  else
    let pad := multiPad p.length m
    let q := p ++ rep padByte pad
    let bytes := q ++ digest (crc16ccitt q)
    { bytes := bytes, frames := ceilDiv bytes.length m, pad := pad, single := false }

/-- `data_k = take(M, drop(k * M, S))` (R172). -/
def frameData (stream : Bytes) (m k : Nat) : Bytes := (stream.drop (k * m)).take m

/-- `tail_k` of a transfer of `n` frames (R172). -/
def frameTail (n tid k : Nat) : Byte :=
  tailEncode (decide (k = 0)) (decide (k = n - 1)) (decide (k % 2 = 0)) tid

/-- `wire_k = data_k ++ [tail_k]` (R172). -/
def wireFrame (stream : Bytes) (m n tid k : Nat) : Bytes := frameData stream m k ++ [frameTail n tid k]

/-- `frames(P, M, TID)`: the wire payloads of a transfer, in order (R171, R172). -/
def wireFrames (p : Bytes) (m tid : Nat) : List Bytes :=
  let t := txStream p m
  (List.range t.frames).map (wireFrame t.bytes m t.frames tid)

/-- SER.START (R175). -/
def execSerStart (m tid : Byte) (lb : Bool) (ident : BitVec 32) (s : State) : Host.Outcome State Fault Refusal :=
  if m = 0 then raise .invalidConfiguration s
  else
    respond { st := .ok }
      (s.withSer
        { phase := .collect, m := m, tid := tid, ident := ident, lb := lb, payload := [], stream := [], n := 0, k := 0 })

/-- SER.FRAG (R176). -/
def execSerFrag (d : Bytes) (s : State) : Host.Outcome State Fault Refusal :=
  if s.ser.phase ≠ .collect then raise .sequenceError s
  else if !admits s.params.txCap (s.ser.payload.length + d.length) then raise .capacityExceeded s
  else respond { st := .ok } (s.withSer { s.ser with payload := s.ser.payload ++ d })

/-- SER.SEAL (R177): fix the frames; `RA` = pad, `RF[0]` = single-frame, `RW` = frame count. -/
def execSerSeal (s : State) : Host.Outcome State Fault Refusal :=
  if s.ser.phase ≠ .collect then raise .sequenceError s
  else
    let t := txStream s.ser.payload s.ser.m.toNat
    respond
      { st := .ok, ra := BitVec.ofNat 8 t.pad, rf := resultFlags t.single false false false,
        rw := BitVec.ofNat 32 t.frames }
      (s.withSer { s.ser with phase := .emit, payload := [], stream := t.bytes, n := t.frames, k := 0 })

/-- SER.NEXT (R178): the frame at the cursor, with its tail byte, data length, flags, loopback and identifier. -/
def execSerNext (s : State) : Host.Outcome State Fault Refusal :=
  if s.ser.phase ≠ .emit then raise .sequenceError s
  else if s.ser.k = s.ser.n then raise .exhausted s
  else
    let k := s.ser.k
    let d := frameData s.ser.stream s.ser.m.toNat k
    let t := frameTail s.ser.n s.ser.tid.toNat k
    respond
      { st := .ok, ra := t, rb := BitVec.ofNat 8 d.length,
        rf := resultFlags (decide (k = 0)) (decide (k = s.ser.n - 1)) (decide (k % 2 = 0)) s.ser.lb,
        rw := s.ser.ident, d := d ++ [t] }
      (s.withSer { s.ser with k := k + 1 })

/-- SER.ABORT (R179): the configuration registers keep their values. -/
def execSerAbort (s : State) : Host.Outcome State Fault Refusal :=
  respond { st := .ok } (s.withSer { s.ser with phase := .idle, payload := [], stream := [], n := 0, k := 0 })

end Sys2Proof.Machine
end

