-- ==== Sys2Proof/Machine/System.lean ====
section
/-! DEFINITION. The system commands NOP and RESET (spec/40_system.md). -/

namespace Sys2Proof.Machine

/-- NOP (R100). -/
def execNop (s : State) : Host.Outcome State Fault Refusal := respond { st := .ok } s

/-- RESET (R101): the reset state of R260 to every register. -/
def execReset (s : State) : Host.Outcome State Fault Refusal := respond { st := .ok } s.applyReset

end Sys2Proof.Machine
end

