-- ==== Sys2Proof/Machine/Dispatch.lean ====
section
/-! DEFINITION. One arm for each row of the opcode map (spec/30_encoding.md R75). -/

namespace Sys2Proof.Machine

def exec (i : Instr) (s : State) : Host.Outcome State Fault Refusal :=
  match i with
  | .nop => Sys2Proof.Machine.execNop s
  | .reset => Sys2Proof.Machine.execReset s
  | .dlcCeil n => Sys2Proof.Machine.execDlcCeil n s
  | .padReq m n => Sys2Proof.Machine.execPadReq m n s
  | .crcInit => Sys2Proof.Machine.execCrcInit s
  | .crcAddb b => Sys2Proof.Machine.execCrcAddb b s
  | .crcAdd d => Sys2Proof.Machine.execCrcAdd d s
  | .crcRead => Sys2Proof.Machine.execCrcRead s
  | .tailEnc sot eot tgl tid => Sys2Proof.Machine.execTailEnc sot eot tgl tid s
  | .tailDec t => Sys2Proof.Machine.execTailDec t s
  | .rfStart c => Sys2Proof.Machine.execRfStart c s
  | .rfPush d => Sys2Proof.Machine.execRfPush d s
  | .rfEnd => Sys2Proof.Machine.execRfEnd s
  | .rfNext => Sys2Proof.Machine.execRfNext s
  | .serStart m tid lb ident => Sys2Proof.Machine.execSerStart m tid lb ident s
  | .serFrag d => Sys2Proof.Machine.execSerFrag d s
  | .serSeal => Sys2Proof.Machine.execSerSeal s
  | .serNext => Sys2Proof.Machine.execSerNext s
  | .serAbort => Sys2Proof.Machine.execSerAbort s
  | .rxFeed slot w => Sys2Proof.Machine.execRxFeed slot w s
  | .rxReset slot => Sys2Proof.Machine.execRxReset slot s
  | .rxState slot => Sys2Proof.Machine.execRxState slot s

end Sys2Proof.Machine
end

