-- ==== Sys2Proof/Machine/Port.lean ====
section
/-! DEFINITION. The command port (spec/20_memory.md R51, R56, R63): how a command comes to wait there, how the engine takes the
oldest one, what it answers to an unassigned opcode (spec/30_encoding.md R76), and the byte order of a narrow port. -/

namespace Sys2Proof.Machine

/-- The host issues a command: it waits behind those already at the port (R51, R63). -/
def State.send (s : State) (c : Command) : State := { s with cmds := s.cmds ++ [c] }

/-- The host issues a command that is taken before any other waiting one. -/
def State.sendFirst (s : State) (c : Command) : State := { s with cmds := c :: s.cmds }

/-- The engine takes the oldest waiting command, if there is one: the command and the state without it (R63; log 1). -/
def takeCommand (s : State) : Option (Command × State) :=
  match s.cmds with
  | [] => none
  | c :: rest => some (c, { s with cmds := rest })

/-- With no command waiting the engine holds its state (R249; log 1). -/
def waitForCommand (s : State) : Host.Outcome State Fault Refusal := .next s

/-- The answer to an unassigned opcode: `ILLEGAL_COMMAND`, no state change (R76). -/
def illegalCommand (s : State) : Host.Outcome State Fault Refusal := raise .illegalCommand s

/-! ### A port narrower than a word (R56; log 7) -/

/-- The bytes of a word, least significant first. -/
def wordBytesLittle (w : Word) : Bytes := (List.range 8).map fun i => w.extractLsb' (8 * i) 8

/-- The bytes of a word in the order the port carries them. -/
def wordToBytes (order : WordByteOrder) (w : Word) : Bytes :=
  match order with
  | .little => wordBytesLittle w
  | .big => (wordBytesLittle w).reverse

/-- The word of bytes given least significant first. -/
def wordOfBytesLittle (bs : Bytes) : Word := bs.foldr (fun b acc => acc <<< 8 ||| b.setWidth 64) 0

/-- The word of the bytes a narrow port has carried. -/
def wordOfBytes (order : WordByteOrder) (bs : Bytes) : Word :=
  match order with
  | .little => wordOfBytesLittle bs
  | .big => wordOfBytesLittle bs.reverse

/-- The host issues a command over a narrow port: the word's bytes, then the block up to the port's end-of-block marker (R51,
R56, R70). -/
def State.sendBytes (order : WordByteOrder) (s : State) (wordBytes block : Bytes) : State :=
  s.send ⟨wordOfBytes order wordBytes, block⟩

end Sys2Proof.Machine
end

