-- ==== Sys2Proof/Machine/Step.lean ====
section
/-! DEFINITION. One step is one command (spec/70_reset_and_hazards.md R267): take it from the port, decode it, run it. -/

namespace Sys2Proof.Machine

/-- One step: the oldest waiting command runs and emits its response (R59, R63); an unassigned opcode is answered
`ILLEGAL_COMMAND` (R76); with no command waiting nothing changes (R249). -/
def step (s : State) : Host.Outcome State Fault Refusal :=
  match takeCommand s with
  | none => waitForCommand s
  | some (c, s') =>
    match decode c with
    | .ok i => exec i s'
    | .error _ => illegalCommand s'

/-- The command of an opcode-table word, put where the next step takes its command (log 1, log 11). -/
def State.withFetchWord (s : State) (nbits w : Nat) : State := s.sendFirst (tableCommand nbits w)

end Sys2Proof.Machine
end

