-- ==== Sys2Proof/Machine/Assembler.lean ====
section
/-! DEFINITION. The assembler (spec/30_encoding.md R78, R79): what a line means once its characters are read, the
pseudo-instructions, and the reading of a line's characters. What R78 leaves open is fixed in log 8. -/

namespace Sys2Proof.Machine

/-- The text of a mnemonic (R75, R78). -/
def mnemonicText : Mnemonic → String
  | .nop => "NOP"
  | .reset => "RESET"
  | .dlcCeil => "DLC.CEIL"
  | .padReq => "PAD.REQ"
  | .crcInit => "CRC.INIT"
  | .crcAddb => "CRC.ADDB"
  | .crcAdd => "CRC.ADD"
  | .crcRead => "CRC.READ"
  | .tailEnc => "TAIL.ENC"
  | .tailDec => "TAIL.DEC"
  | .rfStart => "RF.START"
  | .rfPush => "RF.PUSH"
  | .rfEnd => "RF.END"
  | .rfNext => "RF.NEXT"
  | .serStart => "SER.START"
  | .serFrag => "SER.FRAG"
  | .serSeal => "SER.SEAL"
  | .serNext => "SER.NEXT"
  | .serAbort => "SER.ABORT"
  | .rxFeed => "RX.FEED"
  | .rxReset => "RX.RESET"
  | .rxState => "RX.STATE"

/-- The widths of a command's number operands, in the order of the syntax column (R78); a boolean is 1 bit. -/
def operandWidths : Mnemonic → List Nat
  | .dlcCeil => [32]
  | .padReq => [8, 32]
  | .crcAddb => [8]
  | .tailEnc => [1, 1, 1, 32]
  | .tailDec => [8]
  | .rfStart => [32]
  | .serStart => [8, 8, 1, 32]
  | .rxFeed | .rxReset | .rxState => [8]
  | .nop | .reset | .crcInit | .crcAdd | .crcRead | .rfPush | .rfEnd | .rfNext
  | .serFrag | .serSeal | .serNext | .serAbort => []

/-- The numbers of a line against the widths: an operand omitted from the end is 0 (R78), one too large for its field or one
too many is refused (log 8). -/
def fillOperands : List Nat → List Nat → Option (List Nat)
  | [], [] => some []
  | [], _ :: _ => none
  | _ :: ws, [] => (fillOperands ws []).map fun l => 0 :: l
  | w :: ws, x :: xs => if x < 2 ^ w then (fillOperands ws xs).map fun l => x :: l else none

/-- The instruction of a mnemonic, its filled operands and its block, where the block stands exactly where one is taken. -/
def buildInstr : Mnemonic → List Nat → Option Bytes → Option Instr
  | .nop, [], none => some .nop
  | .reset, [], none => some .reset
  | .dlcCeil, [n], none => some (.dlcCeil (BitVec.ofNat 32 n))
  | .padReq, [m, n], none => some (.padReq (BitVec.ofNat 8 m) (BitVec.ofNat 32 n))
  | .crcInit, [], none => some .crcInit
  | .crcAddb, [b], none => some (.crcAddb (BitVec.ofNat 8 b))
  | .crcAdd, [], some d => some (.crcAdd d)
  | .crcRead, [], none => some .crcRead
  | .tailEnc, [sot, eot, tgl, tid], none =>
    some (.tailEnc (decide (sot = 1)) (decide (eot = 1)) (decide (tgl = 1)) (BitVec.ofNat 32 tid))
  | .tailDec, [t], none => some (.tailDec (BitVec.ofNat 8 t))
  | .rfStart, [c], none => some (.rfStart (BitVec.ofNat 32 c))
  | .rfPush, [], some d => some (.rfPush d)
  | .rfEnd, [], none => some .rfEnd
  | .rfNext, [], none => some .rfNext
  | .serStart, [m, tid, lb, ident], none =>
    some (.serStart (BitVec.ofNat 8 m) (BitVec.ofNat 8 tid) (decide (lb = 1)) (BitVec.ofNat 32 ident))
  | .serFrag, [], some d => some (.serFrag d)
  | .serSeal, [], none => some .serSeal
  | .serNext, [], none => some .serNext
  | .serAbort, [], none => some .serAbort
  | .rxFeed, [slot], some w => some (.rxFeed (BitVec.ofNat 8 slot) w)
  | .rxReset, [slot], none => some (.rxReset (BitVec.ofNat 8 slot))
  | .rxState, [slot], none => some (.rxState (BitVec.ofNat 8 slot))
  | _, _, _ => none

/-- The instruction of an assembly line (R78). -/
def assemble (l : AsmLine) : Option Instr :=
  match fillOperands (operandWidths l.mn) l.ops with
  | some ops => buildInstr l.mn ops l.block
  | none => none

/-- The assembly line of an instruction, every operand written out (R78). -/
def disassemble : Instr → AsmLine
  | .nop => ⟨.nop, [], none⟩
  | .reset => ⟨.reset, [], none⟩
  | .dlcCeil n => ⟨.dlcCeil, [n.toNat], none⟩
  | .padReq m n => ⟨.padReq, [m.toNat, n.toNat], none⟩
  | .crcInit => ⟨.crcInit, [], none⟩
  | .crcAddb b => ⟨.crcAddb, [b.toNat], none⟩
  | .crcAdd d => ⟨.crcAdd, [], some d⟩
  | .crcRead => ⟨.crcRead, [], none⟩
  | .tailEnc sot eot tgl tid => ⟨.tailEnc, [sot.toNat, eot.toNat, tgl.toNat, tid.toNat], none⟩
  | .tailDec t => ⟨.tailDec, [t.toNat], none⟩
  | .rfStart c => ⟨.rfStart, [c.toNat], none⟩
  | .rfPush d => ⟨.rfPush, [], some d⟩
  | .rfEnd => ⟨.rfEnd, [], none⟩
  | .rfNext => ⟨.rfNext, [], none⟩
  | .serStart m tid lb ident => ⟨.serStart, [m.toNat, tid.toNat, lb.toNat, ident.toNat], none⟩
  | .serFrag d => ⟨.serFrag, [], some d⟩
  | .serSeal => ⟨.serSeal, [], none⟩
  | .serNext => ⟨.serNext, [], none⟩
  | .serAbort => ⟨.serAbort, [], none⟩
  | .rxFeed slot w => ⟨.rxFeed, [slot.toNat], some w⟩
  | .rxReset slot => ⟨.rxReset, [slot.toNat], none⟩
  | .rxState slot => ⟨.rxState, [slot.toNat], none⟩

/-- The commands a pseudo-instruction stands for, in order (R79). -/
def expandPseudo : Pseudo → List Instr
  | .crcOf d => [.crcInit, .crcAdd d, .crcRead]
  | .serSend m tid lb ident frags => .serStart m tid lb ident :: frags.map .serFrag ++ [.serSeal]
  | .rfRun c bufs => .rfStart c :: bufs.map .rfPush ++ [.rfEnd]

/-! ### Reading a line's characters (R78; log 8) -/

/-- The value of a decimal or hex digit. -/
def digitValue (c : Char) : Option Nat :=
  if '0'.toNat ≤ c.toNat && c.toNat ≤ '9'.toNat then some (c.toNat - '0'.toNat)
  else if 'A'.toNat ≤ c.toNat && c.toNat ≤ 'F'.toNat then some (c.toNat - 'A'.toNat + 10)
  else if 'a'.toNat ≤ c.toNat && c.toNat ≤ 'f'.toNat then some (c.toNat - 'a'.toNat + 10)
  else none

/-- The number its digits write, most significant first, each below the base. -/
def readDigits (base : Nat) (acc : Nat) : List Char → Option Nat
  | [] => some acc
  | c :: cs =>
    match digitValue c with
    | some d => if d < base then readDigits base (acc * base + d) cs else none
    | none => none

/-- A number, decimal or `0x` hex, with at least one digit. -/
def readNumber : List Char → Option Nat
  | [] => none
  | '0' :: 'x' :: c :: cs => readDigits 16 0 (c :: cs)
  | c :: cs => readDigits 10 0 (c :: cs)

/-- The bytes of an ASCII string. -/
def readAscii : List Char → Option Bytes
  | [] => some []
  | c :: cs => if c.toNat < 128 then (readAscii cs).map fun bs => BitVec.ofNat 8 c.toNat :: bs else none

/-- The characters of a mnemonic: capital letters and dots. -/
def isNameChar (c : Char) : Bool := c.isUpper || c == '.'

/-- The lexical elements of a line, with a bound on their number; spaces between them are skipped. -/
def lexUpTo : Nat → List Char → Option (List AsmToken)
  | _, [] => some []
  | 0, _ :: _ => none
  | fuel + 1, c :: cs =>
    if c == ' ' then lexUpTo fuel cs
    else if c == ',' then (lexUpTo fuel cs).map fun l => .comma :: l
    else if c.toNat == 123 then (lexUpTo fuel cs).map fun l => .blockOpen :: l
    else if c.toNat == 125 then (lexUpTo fuel cs).map fun l => .blockClose :: l
    else if c == '"' then
      match cs.dropWhile (· != '"') with
      | [] => none
      | _ :: rest =>
        (readAscii (cs.takeWhile (· != '"'))).bind fun b => (lexUpTo fuel rest).map fun l => .text b :: l
    else if c.isDigit then
      (readNumber ((c :: cs).takeWhile Char.isAlphanum)).bind fun n =>
        (lexUpTo fuel ((c :: cs).dropWhile Char.isAlphanum)).map fun l => .num n :: l
    else if isNameChar c then
      (lexUpTo fuel ((c :: cs).dropWhile isNameChar)).map fun l => .name ((c :: cs).takeWhile isNameChar) :: l
    else none

/-- The bytes of a block literal after its opening brace, up to the closing one, and what follows it. -/
def readBlockBytes : List AsmToken → Option (Bytes × List AsmToken)
  | .num n :: .blockClose :: ts => if n < 256 then some ([BitVec.ofNat 8 n], ts) else none
  | .num n :: .comma :: ts =>
    if n < 256 then (readBlockBytes ts).map fun r => (BitVec.ofNat 8 n :: r.1, r.2) else none
  | _ => none

/-- A block literal (R78): bytes in braces, a string, or an empty pair of braces. -/
def readBlock : List AsmToken → Option (Bytes × List AsmToken)
  | .text b :: ts => some (b, ts)
  | .blockOpen :: .blockClose :: ts => some ([], ts)
  | .blockOpen :: ts => readBlockBytes ts
  | _ => none

/-- The block literals of a line, separated by commas, with a bound on their number. -/
def readBlocks : Nat → List AsmToken → Option (List Bytes)
  | 0, _ => none
  | fuel + 1, ts =>
    match readBlock ts with
    | some (b, []) => some [b]
    | some (b, .comma :: rest) => (readBlocks fuel rest).map fun l => b :: l
    | _ => none

/-- The operands of a line: its numbers, then its block literals, separated by commas. -/
def readOperandList : List AsmToken → Option (List Nat × List Bytes)
  | [] => some ([], [])
  | [.num n] => some ([n], [])
  | .num n :: .comma :: t :: ts => (readOperandList (t :: ts)).map fun r => (n :: r.1, r.2)
  | t :: ts => (readBlocks (ts.length + 1) (t :: ts)).map fun bs => ([], bs)

/-- The mnemonic a name writes (R75). -/
def mnemonicOfText (name : List Char) : Option Mnemonic :=
  (opcodeMap.find? fun row => (mnemonicText row.2).toList == name).map fun row => row.2

/-- The instruction of a command line's mnemonic and operands: at most one block literal (R78). -/
def assembleCommand (mn : Mnemonic) (ops : List Nat) : List Bytes → Option Instr
  | [] => assemble ⟨mn, ops, none⟩
  | [b] => assemble ⟨mn, ops, some b⟩
  | _ :: _ :: _ => none

/-- The pseudo-instruction of a line (R79): its name, its numbers filled like a command's, and at least one block. -/
def assemblePseudo (name : List Char) (ops : List Nat) (blocks : List Bytes) : Option Pseudo :=
  if name == "CRC.OF".toList then
    match ops, blocks with
    | [], [d] => some (.crcOf d)
    | _, _ => none
  else if name == "SER.SEND".toList then
    match fillOperands [8, 8, 1, 32] ops, blocks with
    | some [m, tid, lb, ident], f :: fs =>
      some (.serSend (BitVec.ofNat 8 m) (BitVec.ofNat 8 tid) (decide (lb = 1)) (BitVec.ofNat 32 ident) (f :: fs))
    | _, _ => none
  else if name == "RF.RUN".toList then
    match fillOperands [32] ops, blocks with
    | some [c], b :: bs => some (.rfRun (BitVec.ofNat 32 c) (b :: bs))
    | _, _ => none
  else none

/-- The instructions of one line of assembly text: a command, or a pseudo-instruction's expansion (R78, R79). -/
def assembleText (line : String) : Option (List Instr) :=
  match lexUpTo line.toList.length line.toList with
  | some (.name name :: ts) =>
    (readOperandList ts).bind fun r =>
      match mnemonicOfText name with
      | some mn => (assembleCommand mn r.1 r.2).map fun i => [i]
      | none => (assemblePseudo name r.1 r.2).map expandPseudo
  | _ => none

end Sys2Proof.Machine
end

