-- ==== Sys2Proof/WellFormed.lean ====
section
/-! DEFINITION. The well-formed commands: the ones software should write (spec/30_encoding.md R74 to R76). A command is well
formed when its opcode is assigned, its reserved fields are 0 and it carries no stray block. The engine runs ill-formed
commands too (reserved fields and stray blocks are ignored, R74); what well-formedness buys is that a command can be written
back from its instruction. Every operand field keeps its width in the type of `Instr`, so every instruction's command is
well formed (log 9; Sys2Proof/Laws/PerInstr.lean). -/

namespace Sys2Proof

/-- R76's list of the illegal `OPC` values, range by range. -/
def illegalOpcode (opc : Byte) : Bool :=
  let n := opc.toNat
  (0x02 ≤ n && n ≤ 0x0F) || (0x12 ≤ n && n ≤ 0x1F) || (0x24 ≤ n && n ≤ 0x2F) || (0x32 ≤ n && n ≤ 0x3F)
    || (0x44 ≤ n && n ≤ 0x4F) || (0x55 ≤ n && n ≤ 0x5F) || (0x63 ≤ n && n ≤ 0xFF)

/-- The bits of the command word that a command uses: `OPC` and the fields R75 lists for it. -/
def usedBits : Mnemonic → Word
  | .dlcCeil | .rfStart => 0xFFFFFFFF000000FF
  | .padReq => 0xFFFFFFFF0000FFFF
  | .crcAddb | .tailDec | .rxFeed | .rxReset | .rxState => 0x000000000000FFFF
  | .tailEnc => 0xFFFFFFFF070000FF
  | .serStart => 0xFFFFFFFF01FFFFFF
  | .nop | .reset | .crcInit | .crcAdd | .crcRead | .rfPush | .rfEnd | .rfNext
  | .serFrag | .serSeal | .serNext | .serAbort => 0x00000000000000FF

/-- The commands that take a block (R75, column "block in"; R103). -/
def takesBlock : Mnemonic → Bool
  | .crcAdd | .rfPush | .serFrag | .rxFeed => true
  | .nop | .reset | .dlcCeil | .padReq | .crcInit | .crcAddb | .crcRead | .tailEnc | .tailDec
  | .rfStart | .rfEnd | .rfNext | .serStart | .serSeal | .serNext | .serAbort | .rxReset | .rxState => false

/-- No reserved field of the command holds a non-zero value (R74). -/
def reservedZero (mn : Mnemonic) (c : Command) : Bool := c.word &&& ~~~ usedBits mn == 0

/-- A block stands only where the command takes one (R74). -/
def blockAllowed (mn : Mnemonic) (c : Command) : Bool := takesBlock mn || c.block.isEmpty

/-- The well-formed commands: assigned opcode, reserved fields 0, no stray block (R74, R76). -/
def Command.wf (c : Command) : Bool :=
  !illegalOpcode (fieldOpc c.word) &&
    match mnemonicOf (fieldOpc c.word) with
    | some mn => reservedZero mn c && blockAllowed mn c
    | none => false

/-- Two commands that agree in every field the command they select uses (R74, R75): same used bits, and the same block where
one is taken. -/
def agreeOnUsed (mn : Mnemonic) (c c' : Command) : Prop :=
  c.word &&& usedBits mn = c'.word &&& usedBits mn ∧ (takesBlock mn = true → c.block = c'.block)

/-- An instruction is well formed when its command is. -/
def Instr.wf (i : Instr) : Bool := (encode i).wf

end Sys2Proof
end

