-- ==== Sys2Proof/Safety.lean ====
section
/-! DEFINITION. What the claims speak of: the invariant of the registers (spec/10_state.md R25 to R32), two states with the same
registers, the unit a command belongs to (spec/20_memory.md R64), and a run of commands (spec/70_reset_and_hazards.md
R268). -/

namespace Sys2Proof.Machine

/-- The serializer's invariant: `SER.M` is 1..255 outside IDLE (R26); the payload keeps to `TX_CAP`, and is empty in IDLE and,
once sealed, in EMIT; the stream, the count and the cursor are empty outside EMIT; in EMIT the cursor is within the count
(R27), and the count is that of the stream's chunks, one at least (R171, R172). -/
abbrev Ser.Inv (cap : Capacity) (r : Ser) : Prop :=
  (r.phase ≠ .idle → r.m ≠ 0)
  ∧ admits cap r.payload.length = true
  ∧ (r.phase ≠ .collect → r.payload = [])
  ∧ (r.phase ≠ .emit → r.stream = [] ∧ r.n = 0 ∧ r.k = 0)
  ∧ (r.phase = .emit → r.k ≤ r.n ∧ r.n = max 1 (ceilDiv r.stream.length r.m.toNat))

/-- The refragmenter's invariant: `RF.C` is at least 1 outside IDLE (R29); the queue keeps to `RF_CAP` and is empty in IDLE
(R30). -/
abbrev Rf.Inv (cap : Capacity) (r : Rf) : Prop :=
  (r.phase ≠ .idle → r.c ≠ 0) ∧ admits cap r.q.length = true ∧ (r.phase = .idle → r.q = [])

/-- A slot's invariant: the buffer keeps to `RX_CAP` and is empty in IDLE (R32). -/
abbrev RxSlot.Inv (cap : Capacity) (r : RxSlot) : Prop :=
  admits cap r.buf.length = true ∧ (r.phase = .idle → r.buf = [])

/-- The invariant of every reachable state: legal parameters (R10), `NSESS` slots (R31), and each unit's own. -/
abbrev State.Inv (s : State) : Prop :=
  s.params.legal = true ∧ s.rx.length = s.params.nsess ∧ s.ser.Inv s.params.txCap ∧ s.rf.Inv s.params.rfCap
  ∧ ∀ r ∈ s.rx, r.Inv s.params.rxCap

/-- Two states with the same parameters and the same registers (R20); their ports may differ. -/
abbrev SameRegisters (s t : State) : Prop :=
  s.params = t.params ∧ s.crc = t.crc ∧ s.ser = t.ser ∧ s.rf = t.rf ∧ s.rx = t.rx

/-- What a command can read or write (R64): nothing, one unit's registers, one slot, or everything (RESET). -/
inductive EngineUnit where
  | none
  | crc
  | ser
  | rf
  | slot (i : Nat)
  | all
deriving DecidableEq, Repr

/-- The unit of each command (R24 to R32, R64). -/
def unitOf : Instr → EngineUnit
  | .nop => .none
  | .reset => .all
  | .dlcCeil _ => .none
  | .padReq _ _ => .none
  | .crcInit => .crc
  | .crcAddb _ => .crc
  | .crcAdd _ => .crc
  | .crcRead => .crc
  | .tailEnc _ _ _ _ => .none
  | .tailDec _ => .none
  | .rfStart _ => .rf
  | .rfPush _ => .rf
  | .rfEnd => .rf
  | .rfNext => .rf
  | .serStart _ _ _ _ => .ser
  | .serFrag _ => .ser
  | .serSeal => .ser
  | .serNext => .ser
  | .serAbort => .ser
  | .rxFeed slot _ => .slot slot.toNat
  | .rxReset slot => .slot slot.toNat
  | .rxState slot => .slot slot.toNat

/-- Commands run one after the other (R63, R268). -/
def runInstrs : List Instr → State → Host.Outcome State Fault Refusal
  | [], s => .next s
  | i :: is, s =>
    match exec i s with
    | .next t => runInstrs is t
    | .fault r => .fault r
    | .refused r => .refused r

/-- `k` steps one after the other (R63). -/
def runSteps : Nat → State → Host.Outcome State Fault Refusal
  | 0, s => .next s
  | k + 1, s =>
    match step s with
    | .next t => runSteps k t
    | .fault r => .fault r
    | .refused r => .refused r

end Sys2Proof.Machine
end

