-- ==== Sys2Proof/Certificates/Slice0/Obligations.lean ====
section
/-! DEFINITION. The statements for the provers. Response words are written with `responseWord ST RA RB RF RW`, whose layout is
a statement of its own (`ResponseWordLayout`), or, where only `ST` is non-zero, as the number itself. -/

open Sys2Proof Sys2Proof.Machine

/-! ### Encoding -/

/-- Decode and encode agree: every instruction, with every operand at every value its field admits, has a well-formed command,
and that command decodes to it (R71, R73, R75). -/
def Obligations.DecodeEncodeAgree : Prop :=
  ∀ i : Instr, i.wf = true ∧ decode (encode i) = .ok i

/-- The other direction: a well-formed command is the command of the instruction it decodes to, so decoding one loses nothing
(R74 to R76). -/
def Obligations.EncodeDecodeAgree : Prop :=
  ∀ c : Command, c.wf = true → ∃ i, decode c = .ok i ∧ encode i = c

/-- R74: commands that agree in the fields their opcode uses decode alike and step alike, whatever their reserved fields and
stray blocks hold. -/
def Obligations.ReservedFieldsAreIgnored : Prop :=
  ∀ (mn : Mnemonic) (c c' : Command), mnemonicOf (c.word.extractLsb' 0 8) = some mn → agreeOnUsed mn c c' →
    decode c = decode c' ∧ ∀ s : State, step (s.sendFirst c) = step (s.sendFirst c')

/-- R76: an `OPC` in one of the listed ranges gets `ILLEGAL_COMMAND` (0x20) with every other field 0 and an empty block, and no
register changes; every other `OPC` decodes to an instruction, whatever the reserved fields hold. -/
def Obligations.IllegalOpcodesAreAnswered : Prop :=
  ∀ (s : State) (c : Command) (rest : List Command) (n : Nat), s.cmds = c :: rest → n = c.word.toNat % 256 →
    if (0x02 ≤ n ∧ n ≤ 0x0F) ∨ (0x12 ≤ n ∧ n ≤ 0x1F) ∨ (0x24 ≤ n ∧ n ≤ 0x2F) ∨ (0x32 ≤ n ∧ n ≤ 0x3F)
        ∨ (0x44 ≤ n ∧ n ≤ 0x4F) ∨ (0x55 ≤ n ∧ n ≤ 0x5F) ∨ (0x63 ≤ n ∧ n ≤ 0xFF)
    then step s = .next { s with cmds := rest, resps := s.resps ++ [⟨0x20, []⟩] }
    else ∃ i, decode c = .ok i

/-- R80: the example words decode to the commands beside them, and are those commands' encodings. -/
def Obligations.ExampleWordsDecode : Prop :=
  (decode ⟨0x0000000000000000, []⟩ = .ok .nop ∧ encode .nop = ⟨0x0000000000000000, []⟩)
  ∧ (decode ⟨0x0000000000003121, []⟩ = .ok (.crcAddb 0x31) ∧ encode (.crcAddb 0x31) = ⟨0x0000000000003121, []⟩)
  ∧ (decode ⟨0x0000003100003F11, []⟩ = .ok (.padReq 63 49) ∧ encode (.padReq 63 49) = ⟨0x0000003100003F11, []⟩)
  ∧ (decode ⟨0x0000000507000030, []⟩ = .ok (.tailEnc true true true 5)
      ∧ encode (.tailEnc true true true 5) = ⟨0x0000000507000030, []⟩)
  ∧ (decode ⟨0x0000000700000040, []⟩ = .ok (.rfStart 7) ∧ encode (.rfStart 7) = ⟨0x0000000700000040, []⟩)
  ∧ (decode ⟨0x107D550101230750, []⟩ = .ok (.serStart 7 0x23 true 0x107D5501)
      ∧ encode (.serStart 7 0x23 true 0x107D5501) = ⟨0x107D550101230750, []⟩)
  ∧ ∀ w : Bytes, decode ⟨0x0000000000000360, w⟩ = .ok (.rxFeed 3 w) ∧ encode (.rxFeed 3 w) = ⟨0x0000000000000360, w⟩

/-- R71: the value of the command word, each field read back from it, and `F[i]` as word bit `24 + i`. -/
def Obligations.CommandWordLayout : Prop :=
  (∀ (opc a b f : Byte) (w : BitVec 32),
    (packWord opc a b f w).toNat
        = opc.toNat + a.toNat * 2 ^ 8 + b.toNat * 2 ^ 16 + f.toNat * 2 ^ 24 + w.toNat * 2 ^ 32
    ∧ fieldOpc (packWord opc a b f w) = opc ∧ fieldA (packWord opc a b f w) = a ∧ fieldB (packWord opc a b f w) = b
    ∧ fieldF (packWord opc a b f w) = f ∧ fieldW (packWord opc a b f w) = w)
  ∧ ∀ (x : Word) (i : Nat), i < 8 → flagF x i = x.getLsbD (24 + i)

/-- R72: the value of the response word, and each field read back from the response. -/
def Obligations.ResponseWordLayout : Prop :=
  ∀ (st ra rb rf : Byte) (rw : BitVec 32) (d : Bytes),
    let r : Response := ⟨responseWord st ra rb rf rw, d⟩
    r.word.toNat = st.toNat + ra.toNat * 2 ^ 8 + rb.toNat * 2 ^ 16 + rf.toNat * 2 ^ 24 + rw.toNat * 2 ^ 32
    ∧ r.st = st ∧ r.ra = ra ∧ r.rb = rb ∧ r.rf = rf ∧ r.rw = rw

/-- R78: an assembly line with every operand written out assembles back to its instruction. The line stands here with its
characters read (`AsmLine`); the statement says nothing of how they are read. -/
def Obligations.AssemblerReadsBack : Prop :=
  ∀ i : Instr, assemble (disassemble i) = some i

/-- R56: whichever order a narrow port carries a word's eight bytes in, the engine gets the same word. The helpers for a narrow
port are the model's own (log 7). -/
def Obligations.WordByteOrderDoesNotMatter : Prop :=
  ∀ (order : WordByteOrder) (w : Word), (wordToBytes order w).length = 8 ∧ wordOfBytes order (wordToBytes order w) = w

/-! ### The step -/

/-- A step runs the decoded instruction: with the oldest waiting command taken off the port (R63; the port as a list is the
model's choice, log 1). -/
def Obligations.StepRunsTheDecodedCommand : Prop :=
  ∀ (s : State) (c : Command) (rest : List Command) (i : Instr), s.cmds = c :: rest → decode c = .ok i →
    step s = exec i { s with cmds := rest }

/-- With no command waiting the step holds the state (R249; the model's choice for a step without a command, log 1). -/
def Obligations.EmptyPortHoldsTheState : Prop :=
  ∀ s : State, s.cmds = [] → step s = .next s

/-- The engine never stops (R230), and every waiting command, legal or not, is consumed and gets exactly one response after all
the earlier ones (R63, R72). -/
def Obligations.EveryCommandGetsOneResponse : Prop :=
  ∀ (s : State) (c : Command) (rest : List Command), s.cmds = c :: rest →
    ∃ (t : State) (r : Response), step s = .next t ∧ t.cmds = rest ∧ t.resps = s.resps ++ [r]

/-- Commands waiting at the port run one after the other, each from the state the earlier ones left (R63): stepping once for
each is running them in order. -/
def Obligations.QueuedCommandsRunInOrder : Prop :=
  ∀ (is : List Instr) (rest : List Command) (s : State), s.cmds = is.map encode ++ rest →
    runSteps is.length s = runInstrs is { s with cmds := rest }

/-- R77, R231: the status of every response is one of the fourteen, and a response whose status is neither OK nor DELIVERED has
every other field 0 and an empty block. -/
def Obligations.StatusesAreTheFourteen : Prop :=
  ∀ (s t : State) (c : Command) (rest : List Command) (r : Response), s.cmds = c :: rest → step s = .next t →
    t.resps = s.resps ++ [r] →
    r.st ∈ [0x00#8, 0x01#8, 0x02#8, 0x03#8, 0x04#8, 0x05#8, 0x10#8, 0x11#8, 0x12#8, 0x13#8, 0x14#8, 0x20#8, 0x21#8, 0x22#8]
    ∧ (r.st ≠ 0x00 → r.st ≠ 0x01 → r = ⟨r.st.setWidth 64, []⟩)

/-- R232, read with R201 (log 6): a status other than OK, DELIVERED and the four reception discards leaves every register as it
was; a reception discard comes from RX.FEED alone, leaves the slot named in `A` IDLE with an empty buffer, and changes nothing
outside that slot. -/
def Obligations.ErrorsArePrecise : Prop :=
  ∀ (s t : State) (c : Command) (rest : List Command) (r : Response), s.cmds = c :: rest → step s = .next t →
    t.resps = s.resps ++ [r] → r.st ≠ 0x00 → r.st ≠ 0x01 →
    if r.st = 0x11 ∨ r.st = 0x12 ∨ r.st = 0x13 ∨ (r.st = 0x14 ∧ fieldOpc c.word = 0x60)
    then fieldOpc c.word = 0x60
      ∧ ∃ v : RxSlot, v.phase = .idle ∧ v.buf = []
        ∧ t = { s with rx := s.rx.set (fieldA c.word).toNat v, cmds := rest, resps := s.resps ++ [r] }
    else t = { s with cmds := rest, resps := s.resps ++ [r] }

/-- The reset state meets the invariant, for every legal choice of the parameters; those of `State.reset` are legal (R261). The
parameters of `State.reset` are the model's choice (log 3). -/
def Obligations.InvariantHoldsAtReset : Prop :=
  (∀ p : Params, p.legal = true → (State.resetWith p).Inv) ∧ State.reset.Inv

/-- Every step keeps the invariant of the registers (R25 to R32) and the parameters (R20). -/
def Obligations.StepKeepsTheInvariant : Prop :=
  ∀ s t : State, s.Inv → step s = .next t → t.Inv ∧ t.params = s.params

/-- R64: commands of different units, or of different slots, and commands that touch no state, can be exchanged: the same two
responses, the same registers. (RESET touches every unit and is left out.) -/
def Obligations.IndependentCommandsCommute : Prop :=
  ∀ (i j : Instr) (s : State), unitOf i ≠ .all → unitOf j ≠ .all → (unitOf i = .none ∨ unitOf i ≠ unitOf j) →
    ∃ (a b : State) (ri rj : Response),
      runInstrs [i, j] s = .next a ∧ runInstrs [j, i] s = .next b ∧ SameRegisters a b
      ∧ a.resps = s.resps ++ [ri, rj] ∧ b.resps = s.resps ++ [rj, ri]

/-- R20 to R32, R60, R214, the frame of every command but RESET: it answers a next state that differs from the one before in
the registers of its own unit alone, and in one new response; a command on a slot leaves every other slot as it was, and the
commands NOP, DLC.CEIL, PAD.REQ, CRC.READ, TAIL.ENC, TAIL.DEC and RX.STATE leave every register as it was. -/
def Obligations.CommandsChangeOnlyTheirUnit : Prop :=
  ∀ (i : Instr) (s : State), unitOf i ≠ .all →
    ∃ (t : State) (r : Response), exec i s = .next t ∧ t.params = s.params ∧ t.cmds = s.cmds ∧ t.resps = s.resps ++ [r]
      ∧ (unitOf i ≠ .crc → t.crc = s.crc) ∧ (unitOf i ≠ .ser → t.ser = s.ser) ∧ (unitOf i ≠ .rf → t.rf = s.rf)
      ∧ t.rx.length = s.rx.length ∧ (∀ j : Nat, unitOf i ≠ .slot j → t.rx[j]? = s.rx[j]?)
      ∧ ((mnemonic i = .nop ∨ mnemonic i = .dlcCeil ∨ mnemonic i = .padReq ∨ mnemonic i = .crcRead ∨ mnemonic i = .tailEnc
            ∨ mnemonic i = .tailDec ∨ mnemonic i = .rxState) → SameRegisters t s)

/-- R60: the commands that write no state answer the same response twice, and RESET, CRC.INIT, SER.ABORT and RX.RESET leave the
same registers when issued twice as when issued once. -/
def Obligations.ReadingsRepeatAndResetsAreIdempotent : Prop :=
  (∀ (i : Instr) (s : State), (mnemonic i = .nop ∨ mnemonic i = .dlcCeil ∨ mnemonic i = .padReq ∨ mnemonic i = .crcRead
      ∨ mnemonic i = .tailEnc ∨ mnemonic i = .tailDec ∨ mnemonic i = .rxState) →
    ∃ r : Response, runInstrs [i, i] s = .next { s with resps := s.resps ++ [r, r] })
  ∧ ∀ (i : Instr) (s : State), (mnemonic i = .reset ∨ mnemonic i = .crcInit ∨ mnemonic i = .serAbort
      ∨ mnemonic i = .rxReset) →
    ∃ a b : State, runInstrs [i] s = .next a ∧ runInstrs [i, i] s = .next b ∧ SameRegisters a b

/-! ### System -/

/-- R100: NOP. -/
def Obligations.NopAnswersOk : Prop :=
  (∀ c : Command, c.word.extractLsb' 0 8 = 0x00#8 → decode c = .ok .nop)
  ∧ ∀ s : State, exec .nop s = .next { s with resps := s.resps ++ [⟨0, []⟩] }

/-- R101, R260: every register's reset value, after power-on and after RESET; the response to RESET is OK with every field 0.
Two clauses are the model's choice and no rule of the spec: that RESET keeps the commands that wait and the responses that have
left (log 10), and that `State.reset` is the reset state with the parameters `Params.standard` (log 3). -/
def Obligations.ResetSetsEveryRegister : Prop :=
  (∀ c : Command, c.word.extractLsb' 0 8 = 0x01#8 → decode c = .ok .reset)
  ∧ (∀ p : Params, SameRegisters (State.resetWith p)
      ⟨p, 0xFFFF, ⟨.idle, 0, 0, 0, false, [], [], 0, 0⟩, ⟨.idle, 0, []⟩, List.replicate p.nsess ⟨.idle, 0, false, []⟩, [], []⟩)
  ∧ State.reset = State.resetWith Params.standard
  ∧ ∀ s : State, exec .reset s = .next
      ⟨s.params, 0xFFFF, ⟨.idle, 0, 0, 0, false, [], [], 0, 0⟩, ⟨.idle, 0, []⟩,
        List.replicate s.params.nsess ⟨.idle, 0, false, []⟩, s.cmds, s.resps ++ [⟨0, []⟩]⟩

/-! ### DLC table and padding -/

/-- R114 with R110: DLC.CEIL answers the least legal length that is at least `n`, and `BAD_OPERAND` above 64. -/
def Obligations.DlcCeilAnswersTheLeastLegalLength : Prop :=
  (∀ c : Command, c.word.extractLsb' 0 8 = 0x10#8 → decode c = .ok (.dlcCeil (c.word.extractLsb' 32 32)))
  ∧ ∀ (n : BitVec 32) (s : State),
    if n.toNat ≤ 64
    then ∃ l ∈ [0, 1, 2, 3, 4, 5, 6, 7, 8, 12, 16, 20, 24, 32, 48, 64],
      n.toNat ≤ l ∧ (∀ l' ∈ [0, 1, 2, 3, 4, 5, 6, 7, 8, 12, 16, 20, 24, 32, 48, 64], n.toNat ≤ l' → l ≤ l')
      ∧ exec (.dlcCeil n) s = .next { s with resps := s.resps ++ [⟨responseWord 0x00 0 0 0 (BitVec.ofNat 32 l), []⟩] }
    else exec (.dlcCeil n) s = .next { s with resps := s.resps ++ [⟨0x21, []⟩] }

/-- R115 with R111 and R112: PAD.REQ answers the distance from `n` to the least legal length in `[n, M]`, 0 where there is none,
and `BAD_OPERAND` for `n > M`. -/
def Obligations.PadReqAnswersTheLeastPadding : Prop :=
  (∀ c : Command, c.word.extractLsb' 0 8 = 0x11#8 →
    decode c = .ok (.padReq (c.word.extractLsb' 8 8) (c.word.extractLsb' 32 32)))
  ∧ ∀ (m : Byte) (n : BitVec 32) (s : State),
    if n.toNat ≤ m.toNat
    then ∃ p : Nat,
      exec (.padReq m n) s = .next { s with resps := s.resps ++ [⟨responseWord 0x00 0 0 0 (BitVec.ofNat 32 p), []⟩] }
      ∧ ((∃ l ∈ [0, 1, 2, 3, 4, 5, 6, 7, 8, 12, 16, 20, 24, 32, 48, 64], n.toNat ≤ l ∧ l ≤ m.toNat
            ∧ (∀ l' ∈ [0, 1, 2, 3, 4, 5, 6, 7, 8, 12, 16, 20, 24, 32, 48, 64], n.toNat ≤ l' → l ≤ l')
            ∧ p = l - n.toNat)
          ∨ ((∀ l ∈ [0, 1, 2, 3, 4, 5, 6, 7, 8, 12, 16, 20, 24, 32, 48, 64], ¬ (n.toNat ≤ l ∧ l ≤ m.toNat)) ∧ p = 0))
    else exec (.padReq m n) s = .next { s with resps := s.resps ++ [⟨0x21, []⟩] }

/-- R116: the laws of `required_padding`, for `n ≤ M`. -/
def Obligations.PaddingLaws : Prop :=
  ∀ n m : Nat, n ≤ m →
    n + requiredPadding n m ≤ m
    ∧ (n + requiredPadding n m ∈ legalLengths ∨ ((∀ l ∈ legalLengths, ¬ (n ≤ l ∧ l ≤ m)) ∧ requiredPadding n m = 0))
    ∧ (m ≤ 8 → requiredPadding n m = 0)
    ∧ (m = 9 → requiredPadding n m = 0)
    ∧ requiredPadding n m ≤ 15
    ∧ (requiredPadding n m = 15 ↔ (n = 33 ∧ 48 ≤ m) ∨ (n = 49 ∧ 64 ≤ m))

/-! ### CRC -/

/-- R122: CRC.INIT. -/
def Obligations.CrcInitStartsAChecksum : Prop :=
  (∀ c : Command, c.word.extractLsb' 0 8 = 0x20#8 → decode c = .ok .crcInit)
  ∧ ∀ s : State, exec .crcInit s = .next { s with crc := 0xFFFF, resps := s.resps ++ [⟨0, []⟩] }

/-- R123: CRC.ADDB. -/
def Obligations.CrcAddbFeedsOneByte : Prop :=
  (∀ c : Command, c.word.extractLsb' 0 8 = 0x21#8 → decode c = .ok (.crcAddb (c.word.extractLsb' 8 8)))
  ∧ ∀ (b : Byte) (s : State),
    exec (.crcAddb b) s = .next { s with crc := crcUpdate s.crc b, resps := s.resps ++ [⟨0, []⟩] }

/-- R124: CRC.ADD. -/
def Obligations.CrcAddFeedsTheBlock : Prop :=
  (∀ c : Command, c.word.extractLsb' 0 8 = 0x22#8 → decode c = .ok (.crcAdd c.block))
  ∧ ∀ (d : Bytes) (s : State),
    exec (.crcAdd d) s = .next { s with crc := crc16 s.crc d, resps := s.resps ++ [⟨0, []⟩] }

/-- R125: CRC.READ answers the register and its digest, high byte first, and writes nothing. -/
def Obligations.CrcReadAnswersTheRegister : Prop :=
  (∀ c : Command, c.word.extractLsb' 0 8 = 0x23#8 → decode c = .ok .crcRead)
  ∧ ∀ s : State, exec .crcRead s = .next
      { s with resps := s.resps ++
          [⟨responseWord 0x00 0 0 0 (BitVec.ofNat 32 s.crc.toNat),
            [BitVec.ofNat 8 (s.crc.toNat / 256), BitVec.ofNat 8 (s.crc.toNat % 256)]⟩] }

/-- R120, R121: `crc_update` shifts the byte in bit by bit, most significant bit first: the polynomial 0x1021 is added exactly
when the bit that leaves the register differs from the bit that arrives. -/
def Obligations.CrcTakesBitsMostSignificantFirst : Prop :=
  ∀ (c : BitVec 16) (b : Byte),
    crcUpdate c b = ([7, 6, 5, 4, 3, 2, 1, 0].map fun i => b.getLsbD i).foldl
      (fun (c : BitVec 16) (x : Bool) => if (c.getLsbD 15 != x) = true then (c <<< 1) ^^^ 0x1021#16 else c <<< 1) c

/-- R126: the CRC is incremental; bytes one at a time, and a buffer split at any points, leave the same register. -/
def Obligations.CrcIsIncremental : Prop :=
  (∀ (c : BitVec 16) (xs ys : Bytes), crc16 c (xs ++ ys) = crc16 (crc16 c xs) ys)
  ∧ (∀ (s : State) (xs : Bytes), ∃ a b : State,
      runInstrs (xs.map .crcAddb) s = .next a ∧ exec (.crcAdd xs) s = .next b ∧ SameRegisters a b)
  ∧ ∀ (s : State) (xss : List Bytes), ∃ a b : State,
      runInstrs (xss.map .crcAdd) s = .next a ∧ exec (.crcAdd xss.flatten) s = .next b ∧ SameRegisters a b

/-- R127: a message followed by its digest has residue 0, so the reassembler's check is the same as the CRC of the whole buffer
being 0. -/
def Obligations.CrcResidueIsZero : Prop :=
  (∀ m : Bytes, crc16 0xFFFF (m ++ digest (crc16ccitt m)) = 0)
  ∧ ∀ b : Bytes, 2 ≤ b.length → (crcVerifies b = true ↔ crc16 0xFFFF b = 0)

/-- R128: the CRC is affine; a single-bit error has a non-zero syndrome; and one changed bit, in the protected bytes or in the
CRC itself, always turns a buffer that verifies into one that does not. -/
def Obligations.CrcDetectsEverySingleBitError : Prop :=
  (∀ m e : Bytes, m.length = e.length →
    crc16ccitt (List.zipWith (· ^^^ ·) m e) = crc16ccitt m ^^^ crc16 0 e)
  ∧ (∀ i k j : Nat, j < 8 → crc16 0 (rep 0 i ++ [1#8 <<< j] ++ rep 0 k) ≠ 0)
  ∧ ∀ (p q : Bytes) (x : Byte) (j : Nat), j < 8 → crcVerifies (p ++ [x] ++ q) = true →
      crcVerifies (p ++ [x ^^^ 1#8 <<< j] ++ q) = false

/-! ### Tail codec -/

/-- R143 with R140: TAIL.ENC answers in `RA` the byte with SOT, EOT and TGL in bits 7, 6 and 5 and the transfer id modulo 32 in
bits 4..0. -/
def Obligations.TailEncAnswersTheTailByte : Prop :=
  (∀ c : Command, c.word.extractLsb' 0 8 = 0x30#8 →
    decode c = .ok (.tailEnc (c.word.getLsbD 24) (c.word.getLsbD 25) (c.word.getLsbD 26) (c.word.extractLsb' 32 32)))
  ∧ ∀ (sot eot tgl : Bool) (tid : BitVec 32) (s : State),
    exec (.tailEnc sot eot tgl tid) s = .next
      { s with resps := s.resps ++
          [⟨responseWord 0x00
              (BitVec.ofNat 8 (128 * sot.toNat + 64 * eot.toNat + 32 * tgl.toNat + tid.toNat % 32)) 0 0 0, []⟩] }

/-- R144 with R141: TAIL.DEC answers the transfer id in `RA` and SOT, EOT, TGL in `RF[0..2]`. -/
def Obligations.TailDecAnswersTheFields : Prop :=
  (∀ c : Command, c.word.extractLsb' 0 8 = 0x31#8 → decode c = .ok (.tailDec (c.word.extractLsb' 8 8)))
  ∧ ∀ (t : Byte) (s : State),
    exec (.tailDec t) s = .next
      { s with resps := s.resps ++
          [⟨responseWord 0x00 (BitVec.ofNat 8 (t.toNat % 32)) 0
              (BitVec.ofNat 8 ((t.getLsbD 7).toNat + 2 * (t.getLsbD 6).toNat + 4 * (t.getLsbD 5).toNat)) 0, []⟩] }

/-- R142: the two directions of the codec, and the bijection they make. -/
def Obligations.TailCodecRoundTrip : Prop :=
  (∀ (sot eot tgl : Bool) (tid : Nat), tailDecode (tailEncode sot eot tgl tid) = ⟨sot, eot, tgl, BitVec.ofNat 5 (tid % 32)⟩)
  ∧ (∀ x : Byte, tailEncode (tailDecode x).sot (tailDecode x).eot (tailDecode x).tgl (tailDecode x).tid.toNat = x)
  ∧ Function.Bijective fun q : (Bool × Bool × Bool) × Fin 32 => tailEncode q.1.1 q.1.2.1 q.1.2.2 q.2.val

/-! ### Refragmenter -/

/-- R151: RF.START. -/
def Obligations.RfStartBeginsARun : Prop :=
  (∀ c : Command, c.word.extractLsb' 0 8 = 0x40#8 → decode c = .ok (.rfStart (c.word.extractLsb' 32 32)))
  ∧ ∀ (n : BitVec 32) (s : State),
    if n = 0
    then exec (.rfStart n) s = .next { s with resps := s.resps ++ [⟨0x10, []⟩] }
    else exec (.rfStart n) s = .next { s with rf := ⟨.opened, n, []⟩, resps := s.resps ++ [⟨0, []⟩] }

/-- R152: RF.PUSH. -/
def Obligations.RfPushAppendsTheBuffer : Prop :=
  (∀ c : Command, c.word.extractLsb' 0 8 = 0x41#8 → decode c = .ok (.rfPush c.block))
  ∧ ∀ (d : Bytes) (s : State),
    if s.rf.phase ≠ .opened
    then exec (.rfPush d) s = .next { s with resps := s.resps ++ [⟨0x22, []⟩] }
    else if admits s.params.rfCap (s.rf.q.length + d.length) = false
    then exec (.rfPush d) s = .next { s with resps := s.resps ++ [⟨0x14, []⟩] }
    else exec (.rfPush d) s = .next
      { s with rf := { s.rf with q := s.rf.q ++ d }, resps := s.resps ++ [⟨0, []⟩] }

/-- R153: RF.END. -/
def Obligations.RfEndEndsTheInput : Prop :=
  (∀ c : Command, c.word.extractLsb' 0 8 = 0x42#8 → decode c = .ok .rfEnd)
  ∧ ∀ s : State,
    if s.rf.phase = .opened
    then exec .rfEnd s = .next { s with rf := { s.rf with phase := .ended }, resps := s.resps ++ [⟨0, []⟩] }
    else exec .rfEnd s = .next { s with resps := s.resps ++ [⟨0x22, []⟩] }

/-- R154: RF.NEXT: a full chunk, the shorter final chunk, EXHAUSTED, NOT_READY, or SEQUENCE_ERROR. -/
def Obligations.RfNextDrawsAChunk : Prop :=
  (∀ c : Command, c.word.extractLsb' 0 8 = 0x43#8 → decode c = .ok .rfNext)
  ∧ ∀ s : State,
    if s.rf.phase = .idle
    then exec .rfNext s = .next { s with resps := s.resps ++ [⟨0x22, []⟩] }
    else if s.rf.c.toNat ≤ s.rf.q.length
    then exec .rfNext s = .next
      { s with rf := { s.rf with q := s.rf.q.drop s.rf.c.toNat },
               resps := s.resps ++
                [⟨responseWord 0x00 0 0 (if s.rf.phase = .ended ∧ s.rf.q.length = s.rf.c.toNat then 1 else 0) s.rf.c,
                  s.rf.q.take s.rf.c.toNat⟩] }
    else if s.rf.phase = .ended ∧ s.rf.q ≠ []
    then exec .rfNext s = .next
      { s with rf := { s.rf with q := [] },
               resps := s.resps ++ [⟨responseWord 0x00 0 0 1 (BitVec.ofNat 32 s.rf.q.length), s.rf.q⟩] }
    else if s.rf.phase = .ended
    then exec .rfNext s = .next { s with resps := s.resps ++ [⟨0x02, []⟩] }
    else exec .rfNext s = .next { s with resps := s.resps ++ [⟨0x03, []⟩] }

/-- R156 with R155: the laws of `refrag`, for `C ≥ 1`. -/
def Obligations.RefragLaws : Prop :=
  ∀ (xs : Bytes) (c : Nat), 1 ≤ c →
    (refrag xs c).flatten = xs
    ∧ (∀ ch ∈ (refrag xs c).dropLast, ch.length = c)
    ∧ (∀ ch, (refrag xs c).getLast? = some ch → 1 ≤ ch.length ∧ ch.length ≤ c ∧ (xs.length % c = 0 → ch.length = c))
    ∧ (∀ ch ∈ refrag xs c, ch ≠ [])
    ∧ (refrag xs c).length = (xs.length + c - 1) / c
    ∧ refrag [] c = []

/-- R157: however RF.PUSH and RF.NEXT are interleaved between RF.START and RF.END, and RF.NEXT then repeated until EXHAUSTED,
with no capacity error, the chunks the responses carry are, in order, `refrag` of the bytes pushed. -/
def Obligations.RefragmenterRunAgreesWithRefrag : Prop :=
  ∀ (s : State) (c : BitVec 32) (is : List Instr) (k : Nat) (xs : Bytes), c ≠ 0 →
    (∀ i ∈ is, i = .rfNext ∨ ∃ d, i = .rfPush d) →
    xs = (is.map fun i => match i with | .rfPush d => d | _ => []).flatten → xs.length < k →
    ∃ (t : State) (new : List Response),
      runInstrs (.rfStart c :: is ++ [.rfEnd] ++ List.replicate k .rfNext) s = .next t
      ∧ t.resps = s.resps ++ new
      ∧ ((∀ r ∈ new, r.st ≠ 0x14) →
          ((new.filter fun r => !r.block.isEmpty).map fun r => r.block) = refrag xs c.toNat
          ∧ (∀ r ∈ new, r.block ≠ [] → r.st = 0x00)
          ∧ new.getLast? = some ⟨0x02, []⟩)

/-! ### Serializer -/

/-- R175: SER.START. -/
def Obligations.SerStartOpensATransfer : Prop :=
  (∀ c : Command, c.word.extractLsb' 0 8 = 0x50#8 →
    decode c = .ok (.serStart (c.word.extractLsb' 8 8) (c.word.extractLsb' 16 8) (c.word.getLsbD 24)
      (c.word.extractLsb' 32 32)))
  ∧ ∀ (m tid : Byte) (lb : Bool) (ident : BitVec 32) (s : State),
    if m = 0
    then exec (.serStart m tid lb ident) s = .next { s with resps := s.resps ++ [⟨0x10, []⟩] }
    else exec (.serStart m tid lb ident) s = .next
      { s with ser := ⟨.collect, m, tid, ident, lb, [], [], 0, 0⟩, resps := s.resps ++ [⟨0, []⟩] }

/-- R176: SER.FRAG. -/
def Obligations.SerFragAppendsTheFragment : Prop :=
  (∀ c : Command, c.word.extractLsb' 0 8 = 0x51#8 → decode c = .ok (.serFrag c.block))
  ∧ ∀ (d : Bytes) (s : State),
    if s.ser.phase ≠ .collect
    then exec (.serFrag d) s = .next { s with resps := s.resps ++ [⟨0x22, []⟩] }
    else if admits s.params.txCap (s.ser.payload.length + d.length) = false
    then exec (.serFrag d) s = .next { s with resps := s.resps ++ [⟨0x14, []⟩] }
    else exec (.serFrag d) s = .next
      { s with ser := { s.ser with payload := s.ser.payload ++ d }, resps := s.resps ++ [⟨0, []⟩] }

/-- R177: SER.SEAL; what it computes is `txStream`, whose laws are `FrameFunctionLaws`. -/
def Obligations.SerSealFixesTheFrames : Prop :=
  (∀ c : Command, c.word.extractLsb' 0 8 = 0x52#8 → decode c = .ok .serSeal)
  ∧ ∀ s : State,
    if s.ser.phase ≠ .collect
    then exec .serSeal s = .next { s with resps := s.resps ++ [⟨0x22, []⟩] }
    else exec .serSeal s = .next
      { s with
        ser := { s.ser with phase := .emit, payload := [], k := 0,
                            stream := (txStream s.ser.payload s.ser.m.toNat).bytes,
                            n := (txStream s.ser.payload s.ser.m.toNat).frames },
        resps := s.resps ++
          [⟨responseWord 0x00 (BitVec.ofNat 8 (txStream s.ser.payload s.ser.m.toNat).pad) 0
              (BitVec.ofNat 8 (txStream s.ser.payload s.ser.m.toNat).single.toNat)
              (BitVec.ofNat 32 (txStream s.ser.payload s.ser.m.toNat).frames), []⟩] }

/-- R178 with R172 and R174: SER.NEXT draws the frame at the cursor: its data, its tail byte, and the flags, loopback and
identifier beside it. -/
def Obligations.SerNextDrawsAFrame : Prop :=
  (∀ c : Command, c.word.extractLsb' 0 8 = 0x53#8 → decode c = .ok .serNext)
  ∧ ∀ (s : State) (d : Bytes) (t : Byte), d = (s.ser.stream.drop (s.ser.k * s.ser.m.toNat)).take s.ser.m.toNat →
    t = tailEncode (decide (s.ser.k = 0)) (decide (s.ser.k = s.ser.n - 1)) (decide (s.ser.k % 2 = 0)) s.ser.tid.toNat →
    if s.ser.phase ≠ .emit
    then exec .serNext s = .next { s with resps := s.resps ++ [⟨0x22, []⟩] }
    else if s.ser.k = s.ser.n
    then exec .serNext s = .next { s with resps := s.resps ++ [⟨0x02, []⟩] }
    else exec .serNext s = .next
      { s with
        ser := { s.ser with k := s.ser.k + 1 },
        resps := s.resps ++
          [⟨responseWord 0x00 t (BitVec.ofNat 8 d.length)
              (BitVec.ofNat 8 ((decide (s.ser.k = 0)).toNat + 2 * (decide (s.ser.k = s.ser.n - 1)).toNat
                + 4 * (decide (s.ser.k % 2 = 0)).toNat + 8 * s.ser.lb.toNat))
              s.ser.ident, d ++ [t]⟩] }

/-- R179: SER.ABORT discards the transfer and keeps the configuration registers. -/
def Obligations.SerAbortDiscardsTheTransfer : Prop :=
  (∀ c : Command, c.word.extractLsb' 0 8 = 0x54#8 → decode c = .ok .serAbort)
  ∧ ∀ s : State, exec .serAbort s = .next
      { s with ser := ⟨.idle, s.ser.m, s.ser.tid, s.ser.ident, s.ser.lb, [], [], 0, 0⟩, resps := s.resps ++ [⟨0, []⟩] }

/-- R170 to R173: the stream and the frames of a transfer of payload `p` with `M ≥ 1` data bytes a frame. -/
def Obligations.FrameFunctionLaws : Prop :=
  ∀ (p : Bytes) (m tid : Nat) (t : TxStream), 1 ≤ m → t = txStream p m →
    (p.length ≤ m → t.single = true ∧ t.frames = 1 ∧ t.pad = requiredPadding p.length m ∧ t.bytes = p ++ rep 0x55 t.pad
      ∧ wireFrames p m tid = [t.bytes ++ [BitVec.ofNat 8 (224 + tid % 32)]])
    ∧ (m < p.length → t.single = false ∧ t.frames = (p.length + t.pad + 2 + m - 1) / m ∧ 2 ≤ t.frames
      ∧ t.pad = (if m ≤ p.length % m + 2 then 0 else requiredPadding (p.length % m + 2) m)
      ∧ t.bytes = p ++ rep 0x55 t.pad ++ digest (crc16ccitt (p ++ rep 0x55 t.pad))
      ∧ (∀ k, k + 1 < t.frames → (frameData t.bytes m k).length = m)
      ∧ 1 ≤ (frameData t.bytes m (t.frames - 1)).length
      ∧ (List.range t.frames).map (frameData t.bytes m) = refrag t.bytes m)
    ∧ (m ≤ 9 → t.pad = 0)
    ∧ (∀ k, (frameData t.bytes m k).length ≤ m)
    ∧ (wireFrames p m tid).length = t.frames
    ∧ (∀ k < t.frames, ∃ x : Byte, (wireFrames p m tid)[k]? = some (frameData t.bytes m k ++ [x])
        ∧ x.getLsbD 7 = decide (k = 0) ∧ x.getLsbD 6 = decide (k + 1 = t.frames) ∧ x.getLsbD 5 = decide (k % 2 = 0)
        ∧ x.toNat % 32 = tid % 32)

/-- R172 to R174, R177 to R179: a whole transfer through the commands. However the payload is cut into fragments, SER.START,
the SER.FRAGs, SER.SEAL and SER.NEXT until EXHAUSTED answer the frames of `stream(P, M)` in order, each with the same
identifier and loopback flag. -/
def Obligations.SerializerEmitsTheFrames : Prop :=
  ∀ (s : State) (m tid : Byte) (lb : Bool) (ident : BitVec 32) (frags : List Bytes) (t : TxStream), m ≠ 0 →
    admits s.params.txCap frags.flatten.length = true → t = txStream frags.flatten m.toNat →
    runInstrs (expandPseudo (.serSend m tid lb ident frags) ++ List.replicate (t.frames + 1) .serNext) s = .next
      { s with
        ser := ⟨.emit, m, tid, ident, lb, [], t.bytes, t.frames, t.frames⟩,
        resps := s.resps ++ List.replicate (frags.length + 1) ⟨0, []⟩
          ++ [⟨responseWord 0x00 (BitVec.ofNat 8 t.pad) 0 (BitVec.ofNat 8 t.single.toNat) (BitVec.ofNat 32 t.frames), []⟩]
          ++ (List.range t.frames).map (fun k =>
              ⟨responseWord 0x00 (frameTail t.frames tid.toNat k) (BitVec.ofNat 8 (frameData t.bytes m.toNat k).length)
                (BitVec.ofNat 8 ((decide (k = 0)).toNat + 2 * (decide (k + 1 = t.frames)).toNat
                  + 4 * (decide (k % 2 = 0)).toNat + 8 * lb.toNat)) ident,
                wireFrame t.bytes m.toNat t.frames tid.toNat k⟩)
          ++ [⟨0x02, []⟩] }

/-! ### Reassembler -/

/-- R200, R201: RX.FEED on a slot that is not in the file answers `BAD_OPERAND`; an empty frame answers `EMPTY_FRAME`; neither
changes a register. -/
def Obligations.RxFeedRefusesBadSlotsAndEmptyFrames : Prop :=
  (∀ c : Command, c.word.extractLsb' 0 8 = 0x60#8 → decode c = .ok (.rxFeed (c.word.extractLsb' 8 8) c.block))
  ∧ (∀ (a : Byte) (w : Bytes) (s : State), s.params.nsess ≤ a.toNat →
      exec (.rxFeed a w) s = .next { s with resps := s.resps ++ [⟨0x21, []⟩] })
  ∧ ∀ (a : Byte) (s : State), a.toNat < s.params.nsess →
      exec (.rxFeed a []) s = .next { s with resps := s.resps ++ [⟨0x05, []⟩] }

/-- R202, R203: a start-of-transfer frame with data `d` and tail byte `t`, whatever the slot held: with EOT the transfer is
delivered verbatim, without any capacity check; without, the reception begins where `RX_CAP` holds the data. -/
def Obligations.RxStartOfTransferBeginsAReception : Prop :=
  ∀ (s : State) (a : Byte) (d : Bytes) (t : Byte), a.toNat < s.params.nsess → t.getLsbD 7 = true →
    (t.getLsbD 6 = true → exec (.rxFeed a (d ++ [t])) s = .next
      { s with rx := s.rx.set a.toNat ⟨.idle, t.extractLsb' 0 5, !t.getLsbD 5, []⟩,
               resps := s.resps ++
                [⟨responseWord 0x01 (BitVec.ofNat 8 (t.toNat % 32)) 0 0 (BitVec.ofNat 32 d.length), d⟩] })
    ∧ (t.getLsbD 6 = false → admits s.params.rxCap d.length = true → exec (.rxFeed a (d ++ [t])) s = .next
      { s with rx := s.rx.set a.toNat ⟨.accumulating, t.extractLsb' 0 5, !t.getLsbD 5, d⟩,
               resps := s.resps ++ [⟨0, []⟩] })

/-- R207: data that would pass `RX_CAP` ends the reception with `CAPACITY_EXCEEDED`. That a start-of-transfer frame has then
written the slot's TID and EXP is the model's reading of R201 (log 6). -/
def Obligations.RxCapacityEndsTheReception : Prop :=
  ∀ (s : State) (a : Byte) (d : Bytes) (t : Byte), a.toNat < s.params.nsess →
    (t.getLsbD 7 = true → t.getLsbD 6 = false → admits s.params.rxCap d.length = false →
      exec (.rxFeed a (d ++ [t])) s = .next
        { s with rx := s.rx.set a.toNat ⟨.idle, t.extractLsb' 0 5, !t.getLsbD 5, []⟩,
                 resps := s.resps ++ [⟨0x14, []⟩] })
    ∧ ∀ r : RxSlot, t.getLsbD 7 = false → s.rx[a.toNat]? = some r → r.phase = .accumulating → t.extractLsb' 0 5 = r.tid →
      t.getLsbD 5 = r.exp → admits s.params.rxCap (r.buf.length + d.length) = false →
      exec (.rxFeed a (d ++ [t])) s = .next
        { s with rx := s.rx.set a.toNat ⟨.idle, r.tid, r.exp, []⟩, resps := s.resps ++ [⟨0x14, []⟩] }

/-- R204, in the order of R236: a continuation frame on an IDLE slot is dropped with `ORPHAN` and no register changes; one with
a wrong transfer id, or with the right one and a wrong toggle, ends the reception. -/
def Obligations.RxContinuationChecksInOrder : Prop :=
  ∀ (s : State) (a : Byte) (d : Bytes) (t : Byte) (r : RxSlot), a.toNat < s.params.nsess → t.getLsbD 7 = false →
    s.rx[a.toNat]? = some r →
    if r.phase = .idle
    then exec (.rxFeed a (d ++ [t])) s = .next { s with resps := s.resps ++ [⟨0x04, []⟩] }
    else if t.extractLsb' 0 5 ≠ r.tid
    then exec (.rxFeed a (d ++ [t])) s = .next
      { s with rx := s.rx.set a.toNat ⟨.idle, r.tid, r.exp, []⟩, resps := s.resps ++ [⟨0x12, []⟩] }
    else t.getLsbD 5 ≠ r.exp →
      exec (.rxFeed a (d ++ [t])) s = .next
        { s with rx := s.rx.set a.toNat ⟨.idle, r.tid, r.exp, []⟩, resps := s.resps ++ [⟨0x11, []⟩] }

/-- R205: an accepted continuation frame without EOT appends its data and flips the expected toggle. -/
def Obligations.RxContinuationIsAccepted : Prop :=
  ∀ (s : State) (a : Byte) (d : Bytes) (t : Byte) (r : RxSlot), a.toNat < s.params.nsess → t.getLsbD 7 = false →
    s.rx[a.toNat]? = some r → r.phase = .accumulating → t.extractLsb' 0 5 = r.tid → t.getLsbD 5 = r.exp →
    admits s.params.rxCap (r.buf.length + d.length) = true → t.getLsbD 6 = false →
    exec (.rxFeed a (d ++ [t])) s = .next
      { s with rx := s.rx.set a.toNat ⟨.accumulating, r.tid, !r.exp, r.buf ++ d⟩, resps := s.resps ++ [⟨0, []⟩] }

/-- R206, R208: the accepted frame with EOT completes the reception. The last two bytes of the buffer are the transmitted CRC,
high byte first; the rest is delivered where its CRC is that value, and the status is `CRC_MISMATCH` where it is not, or where
there are fewer than two bytes. The comparison is the same as the CRC of the whole buffer being 0. The slot ends IDLE and
empty. -/
def Obligations.RxCompletionChecksTheCrc : Prop :=
  ∀ (s : State) (a : Byte) (d : Bytes) (t : Byte) (r : RxSlot), a.toNat < s.params.nsess → t.getLsbD 7 = false →
    s.rx[a.toNat]? = some r → r.phase = .accumulating → t.extractLsb' 0 5 = r.tid → t.getLsbD 5 = r.exp →
    admits s.params.rxCap (r.buf.length + d.length) = true → t.getLsbD 6 = true →
    ((r.buf ++ d).length < 2 → exec (.rxFeed a (d ++ [t])) s = .next
      { s with rx := s.rx.set a.toNat ⟨.idle, r.tid, !r.exp, []⟩, resps := s.resps ++ [⟨0x13, []⟩] })
    ∧ ∀ (q : Bytes) (hi lo : Byte), r.buf ++ d = q ++ [hi, lo] →
      ((crc16ccitt q).toNat = hi.toNat * 256 + lo.toNat ↔ crc16 0xFFFF (r.buf ++ d) = 0)
      ∧ if (crc16ccitt q).toNat = hi.toNat * 256 + lo.toNat
      then exec (.rxFeed a (d ++ [t])) s = .next
        { s with rx := s.rx.set a.toNat ⟨.idle, r.tid, !r.exp, []⟩,
                 resps := s.resps ++
                  [⟨responseWord 0x01 (BitVec.ofNat 8 r.tid.toNat) 0 1 (BitVec.ofNat 32 q.length), q⟩] }
      else exec (.rxFeed a (d ++ [t])) s = .next
        { s with rx := s.rx.set a.toNat ⟨.idle, r.tid, !r.exp, []⟩, resps := s.resps ++ [⟨0x13, []⟩] }

/-- R210: RX.RESET. -/
def Obligations.RxResetClearsTheSlot : Prop :=
  (∀ c : Command, c.word.extractLsb' 0 8 = 0x61#8 → decode c = .ok (.rxReset (c.word.extractLsb' 8 8)))
  ∧ ∀ (a : Byte) (s : State),
    if s.params.nsess ≤ a.toNat
    then exec (.rxReset a) s = .next { s with resps := s.resps ++ [⟨0x21, []⟩] }
    else exec (.rxReset a) s = .next
      { s with rx := s.rx.set a.toNat ⟨.idle, 0, false, []⟩, resps := s.resps ++ [⟨0, []⟩] }

/-- R211: RX.STATE reads the slot and writes nothing. -/
def Obligations.RxStateReadsTheSlot : Prop :=
  (∀ c : Command, c.word.extractLsb' 0 8 = 0x62#8 → decode c = .ok (.rxState (c.word.extractLsb' 8 8)))
  ∧ (∀ (a : Byte) (s : State), s.params.nsess ≤ a.toNat →
      exec (.rxState a) s = .next { s with resps := s.resps ++ [⟨0x21, []⟩] })
  ∧ ∀ (a : Byte) (s : State) (r : RxSlot), a.toNat < s.params.nsess → s.rx[a.toNat]? = some r →
      exec (.rxState a) s = .next
        { s with resps := s.resps ++
            [⟨responseWord 0x00 (BitVec.ofNat 8 r.tid.toNat) 0
                (BitVec.ofNat 8 ((decide (r.phase = .accumulating)).toNat + 4 * r.exp.toNat))
                (BitVec.ofNat 32 r.buf.length), r.buf⟩] }

/-- R212: a start-of-transfer frame abandons whatever reception the slot held, with no report: the outcome is the same whatever
the slot was. -/
def Obligations.RxStartOfTransferSupersedes : Prop :=
  ∀ (s : State) (a : Byte) (d : Bytes) (t : Byte) (v : RxSlot), a.toNat < s.params.nsess → t.getLsbD 7 = true →
    exec (.rxFeed a (d ++ [t])) s = exec (.rxFeed a (d ++ [t])) (s.withSlot a.toNat v)

/-- R213: a continuation frame delivered twice in a row fails the toggle check on its second copy, and the reception is lost. -/
def Obligations.RxDuplicateContinuationIsDetected : Prop :=
  ∀ (s : State) (a : Byte) (d : Bytes) (t : Byte) (r : RxSlot), a.toNat < s.params.nsess → t.getLsbD 7 = false →
    t.getLsbD 6 = false → s.rx[a.toNat]? = some r → r.phase = .accumulating → t.extractLsb' 0 5 = r.tid →
    t.getLsbD 5 = r.exp → admits s.params.rxCap (r.buf.length + d.length) = true →
    runInstrs [.rxFeed a (d ++ [t]), .rxFeed a (d ++ [t])] s = .next
      { s with rx := s.rx.set a.toNat ⟨.idle, r.tid, !r.exp, []⟩, resps := s.resps ++ [⟨0, []⟩, ⟨0x11, []⟩] }

/-- R209: the round trip. The frames of any payload, fed in order to one slot in any state whose buffer can hold the stream,
answer OK for each but the last and then DELIVERED with the payload and its padding. -/
def Obligations.ReassemblyInvertsSerialization : Prop :=
  ∀ (s : State) (a : Byte) (p : Bytes) (m tid : Nat) (t : TxStream), a.toNat < s.params.nsess → a.toNat < s.rx.length →
    1 ≤ m → t = txStream p m → admits s.params.rxCap t.bytes.length = true →
    runInstrs ((wireFrames p m tid).map (.rxFeed a)) s = .next
      { s with
        rx := s.rx.set a.toNat ⟨.idle, BitVec.ofNat 5 tid, decide (t.frames % 2 = 0), []⟩,
        resps := s.resps ++ List.replicate (t.frames - 1) ⟨0, []⟩
          ++ [⟨responseWord 0x01 (BitVec.ofNat 8 (tid % 32)) 0 (BitVec.ofNat 8 (!t.single).toNat)
                (BitVec.ofNat 32 (p.length + t.pad)), p ++ rep 0x55 t.pad⟩] }
end

