-- ==== Sys2Proof/Laws/Decode.lean ====
section
/-! SUPPORT. The opcode map read both ways (spec/30_encoding.md R75, R76). -/

namespace Sys2Proof

/-- The map assigns to each mnemonic's opcode that mnemonic. -/
@[simp] theorem mnemonicOf_opcodeOf (mn : Mnemonic) : mnemonicOf (opcodeOf mn) = some mn := by
  cases mn <;> rfl

/-- R76's list of ranges is exactly the values the map does not assign. -/
theorem illegalOpcode_iff : ∀ opc : Byte, illegalOpcode opc = (mnemonicOf opc).isNone := by
  decide +kernel

/-- An assigned opcode is its mnemonic's. -/
theorem opcodeOf_of_mnemonicOf : ∀ (opc : Byte) (mn : Mnemonic), mnemonicOf opc = some mn → opcodeOf mn = opc := by
  intro opc mn h
  have : ∀ opc : Byte, (mnemonicOf opc).all fun mn => opcodeOf mn == opc := by decide +kernel
  simpa [h] using this opc

theorem decode_of_mnemonicOf {c : Command} {mn : Mnemonic} (h : mnemonicOf (fieldOpc c.word) = some mn) :
    decode c = .ok (readOperands c mn) := by
  simp [decode, h]

end Sys2Proof
end

