-- ==== Sys2Proof/Laws/Functions.lean ====
section
/-! SUPPORT. The defining equations of the pure functions, in the spec's own form, so that a proof need not unfold them. -/

namespace Sys2Proof.Machine

@[simp] theorem crc16_nil (c : BitVec 16) : crc16 c [] = c := rfl

@[simp] theorem crc16_cons (c : BitVec 16) (b : Byte) (xs : Bytes) : crc16 c (b :: xs) = crc16 (crcUpdate c b) xs := rfl

@[simp] theorem length_rep (b : Byte) (k : Nat) : (rep b k).length = k := by simp [rep]

@[simp] theorem length_digest (c : BitVec 16) : (digest c).length = 2 := rfl

theorem refragUpTo_enough (c : Nat) (hc : 1 ≤ c) :
    ∀ (f g : Nat) (xs : Bytes), xs.length ≤ f → xs.length ≤ g → refragUpTo f xs c = refragUpTo g xs c := by
  intro f
  induction f with
  | zero =>
    intro g xs hf _
    have : xs = [] := List.eq_nil_of_length_eq_zero (by omega)
    subst this
    cases g <;> simp [refragUpTo]
  | succ f ih =>
    intro g xs hf hg
    cases g with
    | zero =>
      have : xs = [] := List.eq_nil_of_length_eq_zero (by omega)
      subst this
      simp [refragUpTo]
    | succ g =>
      unfold refragUpTo
      split
      · rfl
      · split
        · rfl
        · rw [ih g (xs.drop c) (by simp; omega) (by simp; omega)]

/-- The recursion of R150, for `C ≥ 1`. -/
theorem refrag_eq (xs : Bytes) (c : Nat) (hc : 1 ≤ c) :
    refrag xs c = if xs = [] then [] else if xs.length ≤ c then [xs] else xs.take c :: refrag (xs.drop c) c := by
  cases xs with
  | nil => simp [refrag, refragUpTo]
  | cons x xs =>
    simp only [refrag, List.length_cons, refragUpTo, List.isEmpty_cons, Bool.false_eq_true, if_false, reduceCtorEq]
    split
    · rfl
    · rw [refragUpTo_enough c hc xs.length _ _ (by simp; omega) le_rfl]

end Sys2Proof.Machine
end

