-- ==== Sys2Proof/Laws/State.lean ====
section
/-! SUPPORT. The field laws of the state updates: one lemma per field per update, true by rfl. -/

namespace Sys2Proof.Machine

/-! ### withCrc -/

@[simp] theorem State.withCrc_params (s : State) (v : BitVec 16) : (s.withCrc v).params = s.params := rfl
@[simp] theorem State.withCrc_crc (s : State) (v : BitVec 16) : (s.withCrc v).crc = v := rfl
@[simp] theorem State.withCrc_ser (s : State) (v : BitVec 16) : (s.withCrc v).ser = s.ser := rfl
@[simp] theorem State.withCrc_rf (s : State) (v : BitVec 16) : (s.withCrc v).rf = s.rf := rfl
@[simp] theorem State.withCrc_rx (s : State) (v : BitVec 16) : (s.withCrc v).rx = s.rx := rfl
@[simp] theorem State.withCrc_cmds (s : State) (v : BitVec 16) : (s.withCrc v).cmds = s.cmds := rfl
@[simp] theorem State.withCrc_resps (s : State) (v : BitVec 16) : (s.withCrc v).resps = s.resps := rfl

/-! ### withSer -/

@[simp] theorem State.withSer_params (s : State) (v : Ser) : (s.withSer v).params = s.params := rfl
@[simp] theorem State.withSer_crc (s : State) (v : Ser) : (s.withSer v).crc = s.crc := rfl
@[simp] theorem State.withSer_ser (s : State) (v : Ser) : (s.withSer v).ser = v := rfl
@[simp] theorem State.withSer_rf (s : State) (v : Ser) : (s.withSer v).rf = s.rf := rfl
@[simp] theorem State.withSer_rx (s : State) (v : Ser) : (s.withSer v).rx = s.rx := rfl
@[simp] theorem State.withSer_cmds (s : State) (v : Ser) : (s.withSer v).cmds = s.cmds := rfl
@[simp] theorem State.withSer_resps (s : State) (v : Ser) : (s.withSer v).resps = s.resps := rfl

/-! ### withRf -/

@[simp] theorem State.withRf_params (s : State) (v : Rf) : (s.withRf v).params = s.params := rfl
@[simp] theorem State.withRf_crc (s : State) (v : Rf) : (s.withRf v).crc = s.crc := rfl
@[simp] theorem State.withRf_ser (s : State) (v : Rf) : (s.withRf v).ser = s.ser := rfl
@[simp] theorem State.withRf_rf (s : State) (v : Rf) : (s.withRf v).rf = v := rfl
@[simp] theorem State.withRf_rx (s : State) (v : Rf) : (s.withRf v).rx = s.rx := rfl
@[simp] theorem State.withRf_cmds (s : State) (v : Rf) : (s.withRf v).cmds = s.cmds := rfl
@[simp] theorem State.withRf_resps (s : State) (v : Rf) : (s.withRf v).resps = s.resps := rfl

/-! ### withSlot -/

@[simp] theorem State.withSlot_params (s : State) (i : Nat) (v : RxSlot) : (s.withSlot i v).params = s.params := rfl
@[simp] theorem State.withSlot_crc (s : State) (i : Nat) (v : RxSlot) : (s.withSlot i v).crc = s.crc := rfl
@[simp] theorem State.withSlot_ser (s : State) (i : Nat) (v : RxSlot) : (s.withSlot i v).ser = s.ser := rfl
@[simp] theorem State.withSlot_rf (s : State) (i : Nat) (v : RxSlot) : (s.withSlot i v).rf = s.rf := rfl
@[simp] theorem State.withSlot_rx (s : State) (i : Nat) (v : RxSlot) : (s.withSlot i v).rx = s.rx.set i v := rfl
@[simp] theorem State.withSlot_cmds (s : State) (i : Nat) (v : RxSlot) : (s.withSlot i v).cmds = s.cmds := rfl
@[simp] theorem State.withSlot_resps (s : State) (i : Nat) (v : RxSlot) : (s.withSlot i v).resps = s.resps := rfl

/-! ### emit -/

@[simp] theorem State.emit_params (s : State) (r : Response) : (s.emit r).params = s.params := rfl
@[simp] theorem State.emit_crc (s : State) (r : Response) : (s.emit r).crc = s.crc := rfl
@[simp] theorem State.emit_ser (s : State) (r : Response) : (s.emit r).ser = s.ser := rfl
@[simp] theorem State.emit_rf (s : State) (r : Response) : (s.emit r).rf = s.rf := rfl
@[simp] theorem State.emit_rx (s : State) (r : Response) : (s.emit r).rx = s.rx := rfl
@[simp] theorem State.emit_cmds (s : State) (r : Response) : (s.emit r).cmds = s.cmds := rfl
@[simp] theorem State.emit_resps (s : State) (r : Response) : (s.emit r).resps = s.resps ++ [r] := rfl

/-! ### send -/

@[simp] theorem State.send_params (s : State) (c : Command) : (s.send c).params = s.params := rfl
@[simp] theorem State.send_crc (s : State) (c : Command) : (s.send c).crc = s.crc := rfl
@[simp] theorem State.send_ser (s : State) (c : Command) : (s.send c).ser = s.ser := rfl
@[simp] theorem State.send_rf (s : State) (c : Command) : (s.send c).rf = s.rf := rfl
@[simp] theorem State.send_rx (s : State) (c : Command) : (s.send c).rx = s.rx := rfl
@[simp] theorem State.send_cmds (s : State) (c : Command) : (s.send c).cmds = s.cmds ++ [c] := rfl
@[simp] theorem State.send_resps (s : State) (c : Command) : (s.send c).resps = s.resps := rfl

/-! ### sendFirst -/

@[simp] theorem State.sendFirst_params (s : State) (c : Command) : (s.sendFirst c).params = s.params := rfl
@[simp] theorem State.sendFirst_crc (s : State) (c : Command) : (s.sendFirst c).crc = s.crc := rfl
@[simp] theorem State.sendFirst_ser (s : State) (c : Command) : (s.sendFirst c).ser = s.ser := rfl
@[simp] theorem State.sendFirst_rf (s : State) (c : Command) : (s.sendFirst c).rf = s.rf := rfl
@[simp] theorem State.sendFirst_rx (s : State) (c : Command) : (s.sendFirst c).rx = s.rx := rfl
@[simp] theorem State.sendFirst_cmds (s : State) (c : Command) : (s.sendFirst c).cmds = c :: s.cmds := rfl
@[simp] theorem State.sendFirst_resps (s : State) (c : Command) : (s.sendFirst c).resps = s.resps := rfl

/-! ### applyReset (R260) -/

@[simp] theorem State.applyReset_params (s : State) : s.applyReset.params = s.params := rfl
@[simp] theorem State.applyReset_crc (s : State) : s.applyReset.crc = 0xFFFF := rfl
@[simp] theorem State.applyReset_ser (s : State) : s.applyReset.ser = Ser.reset := rfl
@[simp] theorem State.applyReset_rf (s : State) : s.applyReset.rf = Rf.reset := rfl
@[simp] theorem State.applyReset_rx (s : State) : s.applyReset.rx = List.replicate s.params.nsess RxSlot.reset := rfl
@[simp] theorem State.applyReset_cmds (s : State) : s.applyReset.cmds = s.cmds := rfl
@[simp] theorem State.applyReset_resps (s : State) : s.applyReset.resps = s.resps := rfl

/-! ### The slot file -/

@[simp] theorem State.slot_withCrc (s : State) (v : BitVec 16) (j : Nat) : (s.withCrc v).slot j = s.slot j := rfl
@[simp] theorem State.slot_withSer (s : State) (v : Ser) (j : Nat) : (s.withSer v).slot j = s.slot j := rfl
@[simp] theorem State.slot_withRf (s : State) (v : Rf) (j : Nat) : (s.withRf v).slot j = s.slot j := rfl
@[simp] theorem State.slot_emit (s : State) (r : Response) (j : Nat) : (s.emit r).slot j = s.slot j := rfl

theorem State.slot_withSlot_self (s : State) (i : Nat) (v : RxSlot) (h : i < s.rx.length) :
    (s.withSlot i v).slot i = v := by
  simp [State.slot, State.withSlot, List.getD_eq_getElem?_getD, h]

theorem State.slot_withSlot_ne (s : State) (i j : Nat) (v : RxSlot) (h : i ≠ j) :
    (s.withSlot i v).slot j = s.slot j := by
  simp [State.slot, State.withSlot, List.getD_eq_getElem?_getD, h]

/-- Writing back what a slot holds changes nothing. -/
theorem State.withSlot_slot (s : State) (i : Nat) : s.withSlot i (s.slot i) = s := by
  have h : s.rx.set i (s.rx.getD i RxSlot.reset) = s.rx := by
    apply List.ext_getElem?
    intro j
    rcases eq_or_ne i j with rfl | hij
    · by_cases hi : i < s.rx.length <;> simp [hi, List.getD_eq_getElem?_getD]
    · simp [hij]
  unfold State.withSlot State.slot
  rw [h]

end Sys2Proof.Machine
end

