-- ==== Sys2Proof/Laws/Ops.lean ====
section
/-! SUPPORT. For each shared operation, one lemma that says everything it can do; the proofs cite these instead of unfolding
the operation. -/

namespace Sys2Proof.Machine

/-- `respond` always goes on, to the state with the one response appended. -/
theorem respond_next {r : Reply} {s t : State} :
    respond r s = .next t ↔ t = s.emit (packReply r) := by
  constructor
  · intro h; cases h; rfl
  · rintro rfl; rfl

/-- `raise` always goes on; it emits the status alone. -/
theorem raise_next {st : Status} {s t : State} :
    raise st s = .next t ↔ t = s.emit (packReply { st := st }) := respond_next

/-- A reply of a status alone packs to the status code in a word of zeros, with an empty block. -/
theorem packReply_status (st : Status) : packReply { st := st } = ⟨(statusCode st).setWidth 64, []⟩ := by
  cases st <;> decide

theorem admits_unbounded (n : Nat) : admits .unbounded n = true := rfl

theorem admits_bytes (k n : Nat) : admits (.bytes k) n = true ↔ n ≤ k := by simp [admits]

/-- A capacity that holds a length holds every smaller one. -/
theorem admits_mono {cap : Capacity} {m n : Nat} (h : m ≤ n) (hn : admits cap n = true) : admits cap m = true := by
  cases cap with
  | unbounded => rfl
  | bytes k => rw [admits_bytes] at *; omega

/-- A legal capacity holds the empty sequence. -/
theorem admits_zero (cap : Capacity) : admits cap 0 = true := by
  cases cap <;> simp [admits]

/-- The slot operand answers the index exactly when it is below `NSESS`. -/
theorem slotOperand_eq_some {s : State} {a : Byte} {i : Nat} :
    slotOperand s a = some i ↔ i = a.toNat ∧ a.toNat < s.params.nsess := by
  unfold slotOperand
  split <;> simp_all [eq_comm]

theorem slotOperand_eq_none {s : State} {a : Byte} : slotOperand s a = none ↔ s.params.nsess ≤ a.toNat := by
  unfold slotOperand
  split <;> simp_all

/-- Only the empty block has no tail byte. -/
theorem splitFrame_eq_none {w : Bytes} : splitFrame w = none ↔ w = [] := by
  unfold splitFrame
  cases h : w.getLast? with
  | none => simpa using List.getLast?_eq_none_iff.mp h
  | some t =>
    have : w ≠ [] := by rintro rfl; simp at h
    simp [this]

/-- A frame splits into its data bytes and its decoded last byte. -/
theorem splitFrame_append (d : Bytes) (t : Byte) : splitFrame (d ++ [t]) = some (d, tailDecode t) := by
  simp [splitFrame]

/-- Every frame that splits is its data bytes followed by the tail byte it was decoded from. -/
theorem splitFrame_eq_some {w d : Bytes} {u : Tail} :
    splitFrame w = some (d, u) ↔ ∃ t, w = d ++ [t] ∧ u = tailDecode t := by
  constructor
  · intro h
    rcases List.eq_nil_or_concat w with rfl | ⟨d', t, rfl⟩
    · simp [splitFrame] at h
    · rw [List.concat_eq_append, splitFrame_append] at h
      obtain ⟨rfl, rfl⟩ := by simpa using h
      exact ⟨t, by simp, rfl⟩
  · rintro ⟨t, rfl, rfl⟩
    exact splitFrame_append d t

/-- The engine takes the oldest waiting command and leaves the rest. -/
theorem takeCommand_eq_some {s s' : State} {c : Command} :
    takeCommand s = some (c, s') ↔ ∃ rest, s.cmds = c :: rest ∧ s' = { s with cmds := rest } := by
  unfold takeCommand
  split <;> simp_all
  exact fun _ => eq_comm

theorem takeCommand_eq_none {s : State} : takeCommand s = none ↔ s.cmds = [] := by
  unfold takeCommand
  split <;> simp_all

/-- Everything one step can do. -/
theorem step_cases (s : State) :
    (s.cmds = [] ∧ step s = .next s)
    ∨ (∃ c rest i, s.cmds = c :: rest ∧ decode c = .ok i ∧ step s = exec i { s with cmds := rest })
    ∨ (∃ c rest opc, s.cmds = c :: rest ∧ decode c = .error (.illegalOpcode opc)
        ∧ step s = raise .illegalCommand { s with cmds := rest }) := by
  cases h : s.cmds with
  | nil => left; simp [step, takeCommand, h, waitForCommand]
  | cons c rest =>
    right
    cases hd : decode c with
    | ok i => left; exact ⟨c, rest, i, rfl, hd, by simp [step, takeCommand, h, hd]⟩
    | error e =>
      right
      cases e with
      | illegalOpcode opc => exact ⟨c, rest, opc, rfl, hd, by simp [step, takeCommand, h, hd, illegalCommand]⟩

/-- Everything one frame can do to a slot, in the order of R236: the three outcomes of a start-of-transfer frame, and the seven
of a continuation frame. -/
theorem feedSlot_cases (cap : Capacity) (r : RxSlot) (d : Bytes) (t : Tail) :
    (t.sot = true ∧ t.eot = true ∧ feedSlot cap r d t
        = (⟨.idle, t.tid, !t.tgl, []⟩, { st := .delivered, ra := t.tid.setWidth 8, rw := BitVec.ofNat 32 d.length, d := d }))
    ∨ (t.sot = true ∧ t.eot = false ∧ admits cap d.length = false
        ∧ feedSlot cap r d t = (⟨.idle, t.tid, !t.tgl, []⟩, { st := .capacityExceeded }))
    ∨ (t.sot = true ∧ t.eot = false ∧ admits cap d.length = true
        ∧ feedSlot cap r d t = (⟨.accumulating, t.tid, !t.tgl, d⟩, { st := .ok }))
    ∨ (t.sot = false ∧ r.phase = .idle ∧ feedSlot cap r d t = (r, { st := .orphan }))
    ∨ (t.sot = false ∧ r.phase = .accumulating ∧ t.tid ≠ r.tid
        ∧ feedSlot cap r d t = (r.idled, { st := .transferIdMismatch }))
    ∨ (t.sot = false ∧ r.phase = .accumulating ∧ t.tid = r.tid ∧ t.tgl ≠ r.exp
        ∧ feedSlot cap r d t = (r.idled, { st := .toggleViolation }))
    ∨ (t.sot = false ∧ r.phase = .accumulating ∧ t.tid = r.tid ∧ t.tgl = r.exp
        ∧ admits cap (r.buf.length + d.length) = false ∧ feedSlot cap r d t = (r.idled, { st := .capacityExceeded }))
    ∨ (t.sot = false ∧ r.phase = .accumulating ∧ t.tid = r.tid ∧ t.tgl = r.exp
        ∧ admits cap (r.buf.length + d.length) = true ∧ t.eot = false
        ∧ feedSlot cap r d t = (⟨.accumulating, r.tid, !r.exp, r.buf ++ d⟩, { st := .ok }))
    ∨ (t.sot = false ∧ r.phase = .accumulating ∧ t.tid = r.tid ∧ t.tgl = r.exp
        ∧ admits cap (r.buf.length + d.length) = true ∧ t.eot = true
        ∧ feedSlot cap r d t = feedComplete ⟨.accumulating, r.tid, !r.exp, r.buf ++ d⟩ (r.buf ++ d) t) := by
  obtain ⟨phase, tid, exp, buf⟩ := r
  obtain ⟨sot, eot, tgl, ttid⟩ := t
  cases sot <;> cases eot <;> cases phase <;> cases hs : admits cap d.length <;>
    cases hc : admits cap (buf.length + d.length) <;> by_cases ht : ttid = tid <;> by_cases hg : tgl = exp <;>
    simp [feedSlot, feedStart, feedContinue, RxSlot.idled, hs, hc, ht, hg]

end Sys2Proof.Machine
end

