-- ==== Sys2Proof/Laws/PerInstr.lean ====
section
/-! SUPPORT. The per-instruction family EncodingShape: each instruction's opcode is the one the opcode map assigns to its
mnemonic (spec/30_encoding.md R75), and its command carries a block only where the command takes one (R74). -/

namespace Sys2Proof.Laws.EncodingShape

/-- The opcode of `i` is the map's, and `i`'s command has no stray block. -/
def Statement (i : Instr) : Prop :=
  mnemonicOf (opcodeOf (mnemonic i)) = some (mnemonic i) ∧ (takesBlock (mnemonic i) = false → (encode i).block = [])

theorem nop : Statement (.nop) := ⟨mnemonicOf_opcodeOf _, fun _ => rfl⟩
theorem reset : Statement (.reset) := ⟨mnemonicOf_opcodeOf _, fun _ => rfl⟩
theorem dlcCeil (n : BitVec 32) : Statement (.dlcCeil n) := ⟨mnemonicOf_opcodeOf _, fun _ => rfl⟩
theorem padReq (m : Byte) (n : BitVec 32) : Statement (.padReq m n) := ⟨mnemonicOf_opcodeOf _, fun _ => rfl⟩
theorem crcInit : Statement (.crcInit) := ⟨mnemonicOf_opcodeOf _, fun _ => rfl⟩
theorem crcAddb (b : Byte) : Statement (.crcAddb b) := ⟨mnemonicOf_opcodeOf _, fun _ => rfl⟩
theorem crcAdd (d : Bytes) : Statement (.crcAdd d) := ⟨mnemonicOf_opcodeOf _, by intro h; cases h⟩
theorem crcRead : Statement (.crcRead) := ⟨mnemonicOf_opcodeOf _, fun _ => rfl⟩
theorem tailEnc (sot eot tgl : Bool) (tid : BitVec 32) : Statement (.tailEnc sot eot tgl tid) := ⟨mnemonicOf_opcodeOf _, fun _ => rfl⟩
theorem tailDec (t : Byte) : Statement (.tailDec t) := ⟨mnemonicOf_opcodeOf _, fun _ => rfl⟩
theorem rfStart (c : BitVec 32) : Statement (.rfStart c) := ⟨mnemonicOf_opcodeOf _, fun _ => rfl⟩
theorem rfPush (d : Bytes) : Statement (.rfPush d) := ⟨mnemonicOf_opcodeOf _, by intro h; cases h⟩
theorem rfEnd : Statement (.rfEnd) := ⟨mnemonicOf_opcodeOf _, fun _ => rfl⟩
theorem rfNext : Statement (.rfNext) := ⟨mnemonicOf_opcodeOf _, fun _ => rfl⟩
theorem serStart (m tid : Byte) (lb : Bool) (ident : BitVec 32) : Statement (.serStart m tid lb ident) := ⟨mnemonicOf_opcodeOf _, fun _ => rfl⟩
theorem serFrag (d : Bytes) : Statement (.serFrag d) := ⟨mnemonicOf_opcodeOf _, by intro h; cases h⟩
theorem serSeal : Statement (.serSeal) := ⟨mnemonicOf_opcodeOf _, fun _ => rfl⟩
theorem serNext : Statement (.serNext) := ⟨mnemonicOf_opcodeOf _, fun _ => rfl⟩
theorem serAbort : Statement (.serAbort) := ⟨mnemonicOf_opcodeOf _, fun _ => rfl⟩
theorem rxFeed (slot : Byte) (w : Bytes) : Statement (.rxFeed slot w) := ⟨mnemonicOf_opcodeOf _, by intro h; cases h⟩
theorem rxReset (slot : Byte) : Statement (.rxReset slot) := ⟨mnemonicOf_opcodeOf _, fun _ => rfl⟩
theorem rxState (slot : Byte) : Statement (.rxState slot) := ⟨mnemonicOf_opcodeOf _, fun _ => rfl⟩

end Sys2Proof.Laws.EncodingShape
end

