-- ==== Sys2Proof/Tests/Slice0.lean ====
section
/-! SUPPORT. Tests: command words written out from R71 and R75, the refusals of WellFormed, one step per vector of
spec/95_test_vectors.md, and for each statement that has hypotheses a witness that meets them. -/

namespace Sys2Proof.Tests

set_option Elab.async false

open Sys2Proof.Machine

/-! ### Helpers -/

/-- The next state, if there is one. -/
def nextOf : Host.Outcome State Fault Refusal → Option State
  | .next t => some t
  | _ => none

/-- The response an instruction answers from a state that has sent none. -/
def answer (i : Instr) (s : State) : Option Response := (nextOf (exec i s)).bind fun t => t.resps.head?

/-- The response of one step to a command word with a block. -/
def stepAnswer (w : Word) (d : Bytes) : Option Response :=
  (nextOf (step (State.reset.send ⟨w, d⟩))).bind fun t => t.resps.head?

/-- What the decoder reads. -/
def decoded (w : Word) (d : Bytes) : Option Instr := (decode ⟨w, d⟩).toOption

/-- The reset state with another serializer. -/
def serIs (r : Ser) : State := { State.reset with ser := r }

/-- The reset state with another refragmenter. -/
def rfIs (r : Rf) : State := { State.reset with rf := r }

/-- The reset state with another slot 0. -/
def slotIs (r : RxSlot) : State := State.reset.withSlot 0 r

/-- The reset state with every capacity at `n` bytes, for the vectors that set one. -/
def capped (n : Nat) (s : State) : State :=
  { s with params := { nsess := 4, txCap := .bytes n, rfCap := .bytes n, rxCap := .bytes n } }

/-! ### Words, from R71, R75 and the tables of spec/95_test_vectors.md -/

/-- V-SYS.1 and V-SYS.2: reserved fields are ignored. -/
theorem test_decode_nop : decoded 0x0000000000000000 [] = some .nop ∧ decoded 0xFFFFFFFFFFFFFF00 [7] = some .nop := by
  decide +kernel
theorem test_decode_reset : decoded 0x0000000000000001 [] = some .reset := by decide +kernel
theorem test_decode_dlc_ceil : decoded 0x0000000900000010 [] = some (.dlcCeil 9) := by decide +kernel
/-- R80. -/
theorem test_decode_pad_req : decoded 0x0000003100003F11 [] = some (.padReq 63 49) := by decide +kernel
theorem test_decode_crc_init : decoded 0x0000000000000020 [] = some .crcInit := by decide +kernel
theorem test_decode_crc_addb : decoded 0x0000000000003521 [] = some (.crcAddb 0x35) := by decide +kernel
theorem test_decode_crc_add : decoded 0x0000000000000022 [0x29, 0xB1] = some (.crcAdd [0x29, 0xB1]) := by decide +kernel
theorem test_decode_crc_read : decoded 0x0000000000000023 [] = some .crcRead := by decide +kernel
/-- Each flag alone, and every other bit of `F` ignored. -/
theorem test_decode_tail_enc :
    decoded 0x0000001F02000030 [] = some (.tailEnc false true false 31)
    ∧ decoded 0x0000000301000030 [] = some (.tailEnc true false false 3)
    ∧ decoded 0x00000023FCFFFF30 [] = some (.tailEnc false false true 35) := by decide +kernel
theorem test_decode_tail_dec : decoded 0x000000000000A331 [] = some (.tailDec 0xA3) := by decide +kernel
theorem test_decode_rf_start : decoded 0x0000000700000040 [] = some (.rfStart 7) := by decide +kernel
theorem test_decode_rf_push : decoded 0x0000000000000041 [0x61] = some (.rfPush [0x61]) := by decide +kernel
theorem test_decode_rf_end : decoded 0x0000000000000042 [] = some .rfEnd := by decide +kernel
theorem test_decode_rf_next : decoded 0x0000000000000043 [] = some .rfNext := by decide +kernel
/-- R80 and P2. -/
theorem test_decode_ser_start :
    decoded 0x107D550101230750 [] = some (.serStart 7 0x23 true 0x107D5501)
    ∧ decoded 0x107D5501FE230750 [] = some (.serStart 7 0x23 false 0x107D5501) := by decide +kernel
theorem test_decode_ser_frag : decoded 0x0000000000000051 [0x6F] = some (.serFrag [0x6F]) := by decide +kernel
theorem test_decode_ser_seal : decoded 0x0000000000000052 [] = some .serSeal := by decide +kernel
theorem test_decode_ser_next : decoded 0x0000000000000053 [] = some .serNext := by decide +kernel
theorem test_decode_ser_abort : decoded 0x0000000000000054 [] = some .serAbort := by decide +kernel
theorem test_decode_rx_feed : decoded 0x0000000000000960 [0x01, 0xE0] = some (.rxFeed 9 [0x01, 0xE0]) := by decide +kernel
theorem test_decode_rx_reset : decoded 0x0000000000000461 [] = some (.rxReset 4) := by decide +kernel
theorem test_decode_rx_state : decoded 0x000000000000FF62 [] = some (.rxState 255) := by decide +kernel

/-- The opcode table's own words (spec/opcode_table.json), and the first step after placing one. -/
theorem test_table_word :
    decodeTableWord 64 0x107D550101230750 = some (.serStart 7 0x23 true 0x107D5501)
    ∧ decodeTableWord 8 0x60 = some (.rxFeed 0 []) ∧ decodeTableWord 64 0x63 = none
    ∧ (nextOf (step (State.reset.withFetchWord 64 0x0000000700000040))).map (fun t => t.rf) = some ⟨.opened, 7, []⟩ := by
  decide +kernel

/-! ### WellFormed refuses each kind of ill-formed command -/

/-- A well-formed command, for comparison. -/
theorem test_wf_accepts : Command.wf ⟨0x0000000507000030, []⟩ = true := by decide +kernel
/-- V-SYS.3: an unassigned opcode. -/
theorem test_wf_refuses_unassigned_opcode : Command.wf ⟨0x02, []⟩ = false := by decide +kernel
/-- V-SYS.2: a reserved field that is not 0. -/
theorem test_wf_refuses_reserved_field : Command.wf ⟨0xFFFFFFFFFFFFFF00, []⟩ = false := by decide +kernel
/-- An `F` bit the command does not name. -/
theorem test_wf_refuses_unnamed_flag : Command.wf ⟨0x0000000508000030, []⟩ = false := by decide +kernel
/-- A block on a command that takes none. -/
theorem test_wf_refuses_stray_block : Command.wf ⟨0x23, [1]⟩ = false := by decide +kernel

/-! ### System (V-SYS) -/

theorem test_nop : stepAnswer 0xFFFFFFFFFFFFFF00 [1, 2] = some ⟨0, []⟩ := by decide +kernel
/-- V-SYS.7: whatever was started is gone. -/
theorem test_reset :
    nextOf (exec .reset (serIs ⟨.collect, 3, 0, 0, false, [], [], 0, 0⟩))
      = some { State.reset with resps := [⟨0, []⟩] } := by decide +kernel
/-- V-SYS.3 to V-SYS.6. -/
theorem test_illegal_commands :
    [0x02, 0xFF, 0x55, 0x63].all (fun w => decide (stepAnswer w [] = some ⟨0x20, []⟩)) = true := by decide +kernel

/-! ### DLC table and padding (V-DLC) -/

theorem test_dlc_ceil :
    [(0, 0), (8, 8), (9, 12), (13, 16), (25, 32), (33, 48), (49, 64), (64, 64)].all
      (fun q => decide (answer (.dlcCeil (BitVec.ofNat 32 q.1)) State.reset = some ⟨BitVec.ofNat 64 (q.2 * 2 ^ 32), []⟩))
      = true := by decide +kernel
theorem test_dlc_ceil_bad_operand :
    answer (.dlcCeil 65) State.reset = some ⟨0x21, []⟩ ∧ answer (.dlcCeil 0xFFFFFFFF) State.reset = some ⟨0x21, []⟩ := by
  decide +kernel
theorem test_pad_req :
    [(63, 10, 2), (63, 49, 0), (64, 49, 15), (48, 33, 15), (9, 9, 0), (11, 10, 0), (12, 9, 3), (255, 65, 0), (1, 0, 0)].all
      (fun q => decide (answer (.padReq (BitVec.ofNat 8 q.1) (BitVec.ofNat 32 q.2.1)) State.reset
        = some ⟨BitVec.ofNat 64 (q.2.2 * 2 ^ 32), []⟩)) = true := by decide +kernel
theorem test_pad_req_bad_operand :
    answer (.padReq 0 1) State.reset = some ⟨0x21, []⟩ ∧ answer (.padReq 63 64) State.reset = some ⟨0x21, []⟩ := by
  decide +kernel

/-! ### CRC (V-CRC) -/

theorem test_crc_init : (nextOf (exec .crcInit { State.reset with crc := 0x1234 })).map (fun t => t.crc) = some 0xFFFF := by
  decide +kernel
theorem test_crc_addb :
    (nextOf (exec (.crcAddb 0x31) State.reset)).map (fun t => t.crc) = some 0xC782 ∧ crcUpdate 0 1 = 0x1021 := by
  decide +kernel
/-- The check string "123456789" and "Hello". -/
theorem test_crc_add :
    (nextOf (exec (.crcAdd [0x31, 0x32, 0x33, 0x34, 0x35, 0x36, 0x37, 0x38, 0x39]) State.reset)).map (fun t => t.crc)
      = some 0x29B1 ∧ crc16ccitt [0x48, 0x65, 0x6C, 0x6C, 0x6F] = 0xDADA ∧ crc16ccitt [0xAA, 0xBB] = 0xF90A := by
  decide +kernel
/-- V-L1.1: the bytes 00..1D. -/
theorem test_crc_of_thirty_bytes : crc16ccitt ((List.range 30).map (BitVec.ofNat 8)) = 0x3554 := by decide +kernel
/-- P1 row 4. -/
theorem test_crc_read : answer .crcRead { State.reset with crc := 0x4560 } = some ⟨0x0000456000000000, [0x45, 0x60]⟩ := by
  decide +kernel

/-! ### Tail codec (V-TAIL) -/

theorem test_tail_enc :
    answer (.tailEnc true true true 5) State.reset = some ⟨0xE500, []⟩
    ∧ answer (.tailEnc false true false 31) State.reset = some ⟨0x5F00, []⟩
    ∧ answer (.tailEnc true false false 3) State.reset = some ⟨0x8300, []⟩
    ∧ answer (.tailEnc false false true 35) State.reset = some ⟨0x2300, []⟩
    ∧ answer (.tailEnc true true true 0xFFFFFFFF) State.reset = some ⟨0xFF00, []⟩ := by decide +kernel
theorem test_tail_dec :
    answer (.tailDec 0xA3) State.reset = some ⟨0x0000000005000300, []⟩
    ∧ answer (.tailDec 0x40) State.reset = some ⟨0x0000000002000000, []⟩
    ∧ answer (.tailDec 0x7F) State.reset = some ⟨0x0000000006001F00, []⟩ := by decide +kernel

/-! ### Refragmenter (V-RF, P4) -/

/-- V-RF.2 and P4 row 1. -/
theorem test_rf_start :
    answer (.rfStart 0) State.reset = some ⟨0x10, []⟩
    ∧ (nextOf (exec (.rfStart 4) (rfIs ⟨.ended, 2, [1]⟩))).map (fun t => t.rf) = some ⟨.opened, 4, []⟩ := by decide +kernel
/-- V-RF.7: the queue may reach `RF_CAP` and not pass it. -/
theorem test_rf_push :
    (nextOf (exec (.rfPush [4, 5]) (capped 4 (rfIs ⟨.opened, 2, [3]⟩)))).map (fun t => t.rf) = some ⟨.opened, 2, [3, 4, 5]⟩
    ∧ answer (.rfPush [4, 5]) (capped 4 (rfIs ⟨.opened, 2, [1, 2, 3]⟩)) = some ⟨0x14, []⟩ := by decide +kernel
/-- V-RF.1. -/
theorem test_rf_push_out_of_sequence : answer (.rfPush [1]) State.reset = some ⟨0x22, []⟩ := by decide +kernel
theorem test_rf_end :
    (nextOf (exec .rfEnd (rfIs ⟨.opened, 3, [1]⟩))).map (fun t => t.rf) = some ⟨.ended, 3, [1]⟩
    ∧ answer .rfEnd (rfIs ⟨.ended, 3, []⟩) = some ⟨0x22, []⟩ := by decide +kernel
/-- V-RF.4 and V-RF.5: the last full chunk is marked only once the input is ended. -/
theorem test_rf_next_full_chunk :
    answer .rfNext (rfIs ⟨.ended, 3, [4, 5, 6]⟩) = some ⟨0x0000000301000000, [4, 5, 6]⟩
    ∧ answer .rfNext (rfIs ⟨.opened, 2, [1, 2]⟩) = some ⟨0x0000000200000000, [1, 2]⟩ := by decide +kernel
/-- V-RF.6, V-RF.1 and P4 rows 2 and 11. -/
theorem test_rf_next_otherwise :
    answer .rfNext (rfIs ⟨.ended, 3, [0x6C, 0x6F]⟩) = some ⟨0x0000000201000000, [0x6C, 0x6F]⟩
    ∧ answer .rfNext (rfIs ⟨.ended, 3, []⟩) = some ⟨0x02, []⟩ ∧ answer .rfNext (rfIs ⟨.opened, 4, [1, 2, 3]⟩) = some ⟨0x03, []⟩
    ∧ answer .rfNext State.reset = some ⟨0x22, []⟩ := by decide +kernel

/-! ### Serializer (V-SER) -/

/-- V-SER.17 row 3: a failed SER.START keeps the open transfer. -/
theorem test_ser_start :
    (nextOf (exec (.serStart 0 9 true 5) (serIs ⟨.collect, 7, 0, 0, false, [1, 2], [], 0, 0⟩))).map (fun t => t.ser)
      = some ⟨.collect, 7, 0, 0, false, [1, 2], [], 0, 0⟩
    ∧ (nextOf (exec (.serStart 1 0x21 true 0xDEADBEEF) (serIs ⟨.emit, 7, 0, 0, false, [], [1], 1, 0⟩))).map (fun t => t.ser)
      = some ⟨.collect, 1, 0x21, 0xDEADBEEF, true, [], [], 0, 0⟩ := by decide +kernel
/-- V-SER.18 rows 3 and 4. -/
theorem test_ser_frag :
    answer (.serFrag [4, 5]) (capped 4 (serIs ⟨.collect, 7, 0, 0, false, [1, 2, 3], [], 0, 0⟩)) = some ⟨0x14, []⟩
    ∧ (nextOf (exec (.serFrag [4]) (capped 4 (serIs ⟨.collect, 7, 0, 0, false, [1, 2, 3], [], 0, 0⟩)))).map
      (fun t => t.ser.payload) = some [1, 2, 3, 4] := by decide +kernel
/-- V-SER.16. -/
theorem test_ser_out_of_sequence :
    answer (.serFrag [1]) State.reset = some ⟨0x22, []⟩ ∧ answer .serSeal State.reset = some ⟨0x22, []⟩
    ∧ answer .serNext State.reset = some ⟨0x22, []⟩ ∧ answer .serAbort State.reset = some ⟨0, []⟩ := by decide +kernel
/-- V-SER.9: single-frame padding. -/
theorem test_ser_seal :
    answer .serSeal (serIs ⟨.collect, 12, 0, 0, false, [1, 2, 3, 4, 5, 6, 7, 8, 9], [], 0, 0⟩)
      = some ⟨0x0000000101000300, []⟩ := by decide +kernel
/-- V-SER.15, its second frame. -/
theorem test_ser_next :
    answer .serNext (serIs ⟨.emit, 1, 0x21, 0xDEADBEEF, true, [], [0xAA, 0xBB, 0xF9, 0x0A], 4, 1⟩)
      = some ⟨0xDEADBEEF08010100, [0xBB, 0x01]⟩ := by decide +kernel
/-- V-SER.2, V-SER.6, V-SER.8 and V-SER.9. -/
theorem test_wire_frames :
    wireFrames [0xAA, 0xBB] 1 0 = [[0xAA, 0xA0], [0xBB, 0x00], [0xF9, 0x20], [0x0A, 0x40]]
    ∧ wireFrames [1, 2, 3, 4, 5, 6, 7, 8, 9, 0x0A, 0x0B, 0x0C, 0x0D] 7 0
      = [[1, 2, 3, 4, 5, 6, 7, 0xA0], [8, 9, 0x0A, 0x0B, 0x0C, 0x0D, 0xF9, 0x00], [0xAD, 0x60]]
    ∧ wireFrames [] 7 0 = [[0xE0]]
    ∧ wireFrames [1, 2, 3, 4, 5, 6, 7, 8, 9] 12 0 = [[1, 2, 3, 4, 5, 6, 7, 8, 9, 0x55, 0x55, 0x55, 0xE0]] := by decide +kernel
/-- V-SER.12 and V-SER.13: the padding of a multi-frame transfer, and V-SER.12's last frame cut from its stream. -/
theorem test_wire_frames_padded :
    multiPad 70 63 = 3 ∧ multiPad 97 64 = 13
    ∧ wireFrame ((List.range 70).map (BitVec.ofNat 8) ++ [0x55, 0x55, 0x55, 0x1B, 0x46]) 63 2 0 1
      = [0x3F, 0x40, 0x41, 0x42, 0x43, 0x44, 0x45, 0x55, 0x55, 0x55, 0x1B, 0x46, 0x40] := by decide +kernel
/-- P5 row 8. -/
theorem test_ser_abort :
    (nextOf (exec .serAbort (serIs ⟨.emit, 7, 1, 2, true, [], [3], 1, 1⟩))).map (fun t => t.ser)
      = some ⟨.idle, 7, 1, 2, true, [], [], 0, 0⟩ := by decide +kernel

/-! ### Reassembler (V-RX) -/

/-- V-RX.1, V-RX.11's first frame and V-RX.17. -/
theorem test_rx_feed_start :
    answer (.rxFeed 0 [0x48, 0x65, 0x6C, 0x6C, 0x6F, 0xE0]) State.reset
      = some ⟨0x0000000500000001, [0x48, 0x65, 0x6C, 0x6C, 0x6F]⟩
    ∧ (nextOf (exec (.rxFeed 0 [1, 2, 0xA1]) State.reset)).map (fun t => t.slot 0) = some ⟨.accumulating, 1, false, [1, 2]⟩
    ∧ answer (.rxFeed 0 [0, 1, 2, 3, 4, 5, 6, 7, 8, 0xA0]) (capped 8 State.reset) = some ⟨0x14, []⟩ := by decide +kernel
/-- V-RX.3, V-RX.7, V-RX.8, V-RX.18 and V-RX.19: the checks of a continuation frame, in their order. -/
theorem test_rx_feed_continuation :
    answer (.rxFeed 0 [0x11, 0x22, 0x05]) State.reset = some ⟨0x04, []⟩
    ∧ answer (.rxFeed 0 [2, 0x21]) (slotIs ⟨.accumulating, 0, false, [1]⟩) = some ⟨0x12, []⟩
    ∧ answer (.rxFeed 0 [2, 3, 4, 0x60]) (slotIs ⟨.accumulating, 0, false, [1]⟩) = some ⟨0x11, []⟩
    ∧ answer (.rxFeed 0 [7, 8, 0x00]) (capped 8 (slotIs ⟨.accumulating, 0, false, [0, 1, 2, 3, 4, 5, 6]⟩)) = some ⟨0x14, []⟩
    ∧ (nextOf (exec (.rxFeed 0 [7, 0x00]) (capped 8 (slotIs ⟨.accumulating, 0, false, [0, 1, 2, 3, 4, 5, 6]⟩)))).map
      (fun t => t.slot 0) = some ⟨.accumulating, 0, true, [0, 1, 2, 3, 4, 5, 6, 7]⟩ := by decide +kernel
/-- V-RX.5, V-RX.6, V-RX.12 and V-RX.13: completion. -/
theorem test_rx_feed_completion :
    answer (.rxFeed 0 [8, 0x47, 0x92, 0x40]) (slotIs ⟨.accumulating, 0, false, [1, 2, 3, 4, 5, 6, 7]⟩)
      = some ⟨0x0000000801000001, [1, 2, 3, 4, 5, 6, 7, 8]⟩
    ∧ answer (.rxFeed 0 [8, 0x47, 0x93, 0x40]) (slotIs ⟨.accumulating, 0, false, [1, 2, 3, 4, 5, 6, 7]⟩) = some ⟨0x13, []⟩
    ∧ (nextOf (exec (.rxFeed 0 [7, 0x40]) (slotIs ⟨.accumulating, 0, false, []⟩))).map (fun t => t.slot 0)
      = some ⟨.idle, 0, true, []⟩
    ∧ answer (.rxFeed 0 [0x40]) (slotIs ⟨.accumulating, 0, false, []⟩) = some ⟨0x13, []⟩ := by decide +kernel
/-- V-RX.21 and V-RX.15. -/
theorem test_rx_feed_operands :
    answer (.rxFeed 9 [1, 0xE0]) State.reset = some ⟨0x21, []⟩
    ∧ answer (.rxFeed 0 []) (slotIs ⟨.accumulating, 0, false, [1, 2]⟩) = some ⟨0x05, []⟩ := by decide +kernel
/-- V-RX.23 and V-RX.21. -/
theorem test_rx_reset :
    (nextOf (exec (.rxReset 0) (slotIs ⟨.accumulating, 3, true, [1, 2]⟩))).map (fun t => t.slot 0) = some ⟨.idle, 0, false, []⟩
    ∧ answer (.rxReset 4) State.reset = some ⟨0x21, []⟩ := by decide +kernel
/-- V-RX.16, P3 row 5 and V-RX.21. -/
theorem test_rx_state :
    answer (.rxState 0) (slotIs ⟨.accumulating, 3, false, [1, 2]⟩) = some ⟨0x0000000201000300, [1, 2]⟩
    ∧ answer (.rxState 0) (slotIs ⟨.idle, 5, true, []⟩) = some ⟨0x0000000004000500, []⟩
    ∧ answer (.rxState 255) State.reset = some ⟨0x21, []⟩ := by decide +kernel

/-! ### Assembler (R78 to R80) -/

theorem test_assemble_text :
    assembleText "SER.START 7, 0x23, 1, 0x107D5501" = some [.serStart 7 0x23 true 0x107D5501]
    ∧ assembleText "SER.START 3" = some [.serStart 3 0 false 0]
    ∧ assembleText "CRC.ADD \"Hello\"" = some [.crcAdd [0x48, 0x65, 0x6C, 0x6C, 0x6F]]
    ∧ assembleText "CRC.ADDB 256" = none := by decide +kernel
theorem test_assemble_pseudo :
    assembleText "RF.RUN 3, \"Hell\", \"o\""
      = some [.rfStart 3, .rfPush [0x48, 0x65, 0x6C, 0x6C], .rfPush [0x6F], .rfEnd] := by decide +kernel
/-- R78: a block literal's bytes, in braces. -/
theorem test_read_block :
    readBlock [.blockOpen, .num 0x11, .comma, .num 34, .blockClose] = some ([0x11, 0x22], [])
    ∧ readBlock [.blockOpen, .blockClose] = some ([], []) ∧ readBlock [.blockOpen, .num 256, .blockClose] = none := by
  decide +kernel

/-! ### Witnesses: for each statement with hypotheses, values that meet them, at a boundary of each clause -/

theorem witness_EncodeDecodeAgree : (⟨0xFFFFFFFF01FFFF50, []⟩ : Command).wf = true := by decide +kernel

theorem witness_ReservedFieldsAreIgnored :
    mnemonicOf ((0xFFFFFFFFFFFFFF00 : Word).extractLsb' 0 8) = some .nop
    ∧ agreeOnUsed .nop ⟨0xFFFFFFFFFFFFFF00, [1]⟩ ⟨0, []⟩ := ⟨by decide +kernel, by decide +kernel, by decide⟩

/-- Both ends of each illegal range, and the assigned values beside them. -/
theorem witness_IllegalOpcodesAreAnswered :
    [0x02, 0x0F, 0x12, 0x1F, 0x24, 0x2F, 0x32, 0x3F, 0x44, 0x4F, 0x55, 0x5F, 0x63, 0xFF].all
      (fun w => decide ((State.reset.send ⟨w, []⟩).cmds = [⟨w, []⟩]) && decide (stepAnswer w [] = some ⟨0x20, []⟩)) = true
    ∧ [0x00, 0x01, 0x10, 0x11, 0x20, 0x23, 0x30, 0x31, 0x40, 0x43, 0x50, 0x54, 0x60, 0x62].all
      (fun w => (decoded w []).isSome) = true := by decide +kernel

theorem witness_CommandWordLayout :
    flagF 0x0000000080000000 7 = true ∧ flagF 0x0000000001000000 0 = true ∧ flagF 0x0000000100000000 7 = false := by
  decide +kernel

theorem witness_StepRunsTheDecodedCommand :
    (State.reset.send ⟨0x23, []⟩).cmds = [⟨0x23, []⟩] ∧ decoded 0x23 [] = some .crcRead := by decide +kernel

theorem witness_EmptyPortHoldsTheState : State.reset.cmds = [] := rfl

theorem witness_EveryCommandGetsOneResponse :
    ((State.reset.send ⟨0x23, []⟩).send ⟨0xFF, []⟩).cmds = [⟨0x23, []⟩, ⟨0xFF, []⟩] := by decide +kernel

theorem witness_QueuedCommandsRunInOrder :
    ((State.reset.send (encode (.crcAddb 1))).send ⟨0xFF, []⟩).cmds = [Instr.crcAddb 1].map encode ++ [⟨0xFF, []⟩] := by
  decide +kernel

/-- One step of a state with one command waiting, its next state and its response. -/
abbrev Steps (s : State) (c : Command) (t : State) (r : Response) : Prop :=
  s.cmds = [c] ∧ step s = .next t ∧ t.resps = s.resps ++ [r]

/-- An error, and a success with fields. -/
theorem witness_StatusesAreTheFourteen :
    (∃ t, Steps (State.reset.send ⟨0xFF, []⟩) ⟨0xFF, []⟩ t ⟨0x20, []⟩)
    ∧ ∃ t, Steps (State.reset.send ⟨0x23, []⟩) ⟨0x23, []⟩ t ⟨0x0000FFFF00000000, [0xFF, 0xFF]⟩ :=
  ⟨⟨_, rfl, rfl, by decide +kernel⟩, ⟨_, rfl, rfl, by decide +kernel⟩⟩

/-- An error of each clause: a reception discard, CAPACITY_EXCEEDED of RX.FEED and of RF.PUSH, and SEQUENCE_ERROR. -/
theorem witness_ErrorsArePrecise :
    (∃ t, Steps ((slotIs ⟨.accumulating, 0, false, [1]⟩).send ⟨0x60, [2, 0x21]⟩) ⟨0x60, [2, 0x21]⟩ t ⟨0x12, []⟩)
    ∧ (∃ t, Steps ((capped 1 State.reset).send ⟨0x60, [1, 2, 0x80]⟩) ⟨0x60, [1, 2, 0x80]⟩ t ⟨0x14, []⟩)
    ∧ (∃ t, Steps ((capped 1 (rfIs ⟨.opened, 2, []⟩)).send ⟨0x41, [1, 2]⟩) ⟨0x41, [1, 2]⟩ t ⟨0x14, []⟩)
    ∧ (∃ t, Steps (State.reset.send ⟨0x43, []⟩) ⟨0x43, []⟩ t ⟨0x22, []⟩)
    ∧ (⟨0x12, []⟩ : Response).st = 0x12 ∧ (⟨0x14, []⟩ : Response).st = 0x14 ∧ (⟨0x22, []⟩ : Response).st = 0x22
    ∧ fieldOpc 0x60 = 0x60 ∧ fieldOpc 0x41 ≠ 0x60 :=
  ⟨⟨_, rfl, rfl, by decide +kernel⟩, ⟨_, rfl, rfl, by decide +kernel⟩, ⟨_, rfl, rfl, by decide +kernel⟩,
    ⟨_, rfl, rfl, by decide +kernel⟩, by decide +kernel⟩

theorem witness_InvariantHoldsAtReset :
    Params.legal ⟨1, .bytes 1, .unbounded, .unbounded⟩ = true ∧ Params.legal ⟨256, .unbounded, .bytes 1, .bytes 1⟩ = true
    ∧ Params.legal ⟨257, .unbounded, .unbounded, .unbounded⟩ = false := by decide +kernel

theorem witness_StepKeepsTheInvariant :
    ((serIs ⟨.emit, 7, 0, 0, false, [], [1], 1, 0⟩).send ⟨0x53, []⟩).Inv
    ∧ ∃ t, step ((serIs ⟨.emit, 7, 0, 0, false, [], [1], 1, 0⟩).send ⟨0x53, []⟩) = .next t :=
  ⟨by decide +kernel, _, rfl⟩

theorem witness_IndependentCommandsCommute :
    unitOf (.rxFeed 0 []) ≠ .all ∧ unitOf (.rxReset 1) ≠ .all ∧ unitOf (.rxFeed 0 []) ≠ unitOf (.rxReset 1)
    ∧ unitOf .nop = .none := by decide +kernel

theorem witness_CommandsChangeOnlyTheirUnit :
    unitOf (.rxFeed 2 []) ≠ .all ∧ unitOf (.rxFeed 2 []) ≠ .slot 3 ∧ unitOf (.rxFeed 2 []) ≠ .crc
    ∧ mnemonic (.rxState 2) = .rxState := by decide +kernel

theorem witness_ReadingsRepeatAndResetsAreIdempotent :
    mnemonic .crcRead = .crcRead ∧ mnemonic .serAbort = .serAbort := by decide

/-- The decoding clause of each per-command statement, on a word with every reserved bit set. -/
theorem witness_decoding_clauses :
    [0x00, 0x01, 0x10, 0x11, 0x20, 0x21, 0x22, 0x23, 0x30, 0x31, 0x40, 0x41, 0x42, 0x43, 0x50, 0x51, 0x52, 0x53, 0x54, 0x60,
      0x61, 0x62].all (fun opc => decide ((0xFFFFFFFFFFFFFF00 ||| BitVec.ofNat 64 opc).extractLsb' 0 8 = BitVec.ofNat 8 opc)
        && (decoded (0xFFFFFFFFFFFFFF00 ||| BitVec.ofNat 64 opc) []).isSome) = true := by decide +kernel

theorem witness_NopAnswersOk : (0xFFFFFFFFFFFFFF00 : Word).extractLsb' 0 8 = 0x00#8 := by decide
theorem witness_ResetSetsEveryRegister : (0xFFFFFFFFFFFFFF01 : Word).extractLsb' 0 8 = 0x01#8 := by decide
theorem witness_DlcCeilAnswersTheLeastLegalLength :
    (0x0000004000000010 : Word).extractLsb' 0 8 = 0x10#8 ∧ (64#32).toNat ≤ 64 ∧ ¬ (65#32).toNat ≤ 64 := by decide
theorem witness_PadReqAnswersTheLeastPadding :
    (0x0000004000004011 : Word).extractLsb' 0 8 = 0x11#8 ∧ (64#32).toNat ≤ (64#8).toNat ∧ ¬ (64#32).toNat ≤ (63#8).toNat := by
  decide
theorem witness_PaddingLaws :
    49 ≤ 64 ∧ requiredPadding 49 64 = 15 ∧ requiredPadding 33 48 = 15 ∧ requiredPadding 33 47 = 0 ∧ requiredPadding 9 9 = 0 := by
  decide +kernel
theorem witness_CrcInitStartsAChecksum : (0x20 : Word).extractLsb' 0 8 = 0x20#8 := by decide
theorem witness_CrcAddbFeedsOneByte : (0xFF21 : Word).extractLsb' 0 8 = 0x21#8 := by decide
theorem witness_CrcAddFeedsTheBlock : (0x22 : Word).extractLsb' 0 8 = 0x22#8 := by decide
theorem witness_CrcReadAnswersTheRegister : (0x23 : Word).extractLsb' 0 8 = 0x23#8 := by decide
/-- The shortest buffer that holds a CRC, and one that verifies. -/
theorem witness_CrcResidueIsZero : 2 ≤ ([0xFF, 0xFF] : Bytes).length ∧ crcVerifies [0xFF, 0xFF] = true := by decide +kernel
theorem witness_CrcDetectsEverySingleBitError :
    ([1, 2] : Bytes).length = ([3, 4] : Bytes).length ∧ 7 < 8 ∧ crcVerifies (([0x31] : Bytes) ++ [0xC7] ++ [0x82]) = true
    ∧ crcVerifies (([0x31] : Bytes) ++ [0xC7 ^^^ 1#8 <<< 7] ++ [0x82]) = false := by decide +kernel
theorem witness_TailEncAnswersTheTailByte : (0x0000000507000030 : Word).extractLsb' 0 8 = 0x30#8 := by decide
theorem witness_TailDecAnswersTheFields : (0xA331 : Word).extractLsb' 0 8 = 0x31#8 := by decide
theorem witness_RfStartBeginsARun : (0x0000000700000040 : Word).extractLsb' 0 8 = 0x40#8 := by decide
theorem witness_RfPushAppendsTheBuffer :
    (0x41 : Word).extractLsb' 0 8 = 0x41#8 ∧ admits (.bytes 4) (3 + 1) = true ∧ admits (.bytes 4) (3 + 2) = false := by decide
theorem witness_RfEndEndsTheInput : (0x42 : Word).extractLsb' 0 8 = 0x42#8 := by decide
theorem witness_RfNextDrawsAChunk : (0x43 : Word).extractLsb' 0 8 = 0x43#8 := by decide
theorem witness_RefragLaws :
    (1 : Nat) ≤ 1 ∧ refrag [1, 2, 3, 4] 2 = [[1, 2], [3, 4]] ∧ refrag [1, 2, 3] 2 = [[1, 2], [3]] := by decide +kernel
theorem witness_RefragmenterRunAgreesWithRefrag :
    (2#32) ≠ 0 ∧ (∀ i ∈ [Instr.rfPush [1, 2, 3], .rfNext], i = .rfNext ∨ ∃ d, i = .rfPush d)
    ∧ ([1, 2, 3] : Bytes) = ([Instr.rfPush [1, 2, 3], .rfNext].map fun i => match i with | .rfPush d => d | _ => []).flatten
    ∧ ([1, 2, 3] : Bytes).length < 4 :=
  ⟨by decide, by simp, rfl, by decide⟩
theorem witness_SerStartOpensATransfer : (0x107D550101230750 : Word).extractLsb' 0 8 = 0x50#8 := by decide
theorem witness_SerFragAppendsTheFragment :
    (0x51 : Word).extractLsb' 0 8 = 0x51#8 ∧ admits (.bytes 4) (3 + 1) = true ∧ admits (.bytes 4) (3 + 2) = false := by decide
theorem witness_SerSealFixesTheFrames : (0x52 : Word).extractLsb' 0 8 = 0x52#8 := by decide
/-- The first frame and the last of a transfer of two, and the cursor past them. -/
theorem witness_SerNextDrawsAFrame :
    (0x53 : Word).extractLsb' 0 8 = 0x53#8
    ∧ answer .serNext (serIs ⟨.emit, 7, 0, 0, false, [], [1, 2, 3, 4, 5, 6, 7, 8, 0x47, 0x92], 2, 0⟩)
      = some ⟨0x000000000507A000, [1, 2, 3, 4, 5, 6, 7, 0xA0]⟩
    ∧ answer .serNext (serIs ⟨.emit, 7, 0, 0, false, [], [1, 2, 3, 4, 5, 6, 7, 8, 0x47, 0x92], 2, 1⟩)
      = some ⟨0x0000000002034000, [8, 0x47, 0x92, 0x40]⟩
    ∧ answer .serNext (serIs ⟨.emit, 7, 0, 0, false, [], [1, 2, 3, 4, 5, 6, 7, 8, 0x47, 0x92], 2, 2⟩) = some ⟨0x02, []⟩ := by
  decide +kernel
theorem witness_SerAbortDiscardsTheTransfer : (0x54 : Word).extractLsb' 0 8 = 0x54#8 := by decide
/-- The two sides of single-frame and multi-frame: `L = M` and `L = M + 1`. -/
theorem witness_FrameFunctionLaws :
    1 ≤ 7 ∧ (txStream [1, 2, 3, 4, 5, 6, 7] 7).single = true ∧ (txStream [1, 2, 3, 4, 5, 6, 7, 8] 7).single = false
    ∧ (txStream [1, 2, 3, 4, 5, 6, 7, 8] 7).frames = 2 := by decide +kernel
theorem witness_SerializerEmitsTheFrames :
    (7#8) ≠ 0 ∧ admits (.bytes 3) ([[1, 2], [3]] : List Bytes).flatten.length = true := by decide
theorem witness_RxFeedRefusesBadSlotsAndEmptyFrames :
    (0x0360 : Word).extractLsb' 0 8 = 0x60#8 ∧ State.reset.params.nsess ≤ (4#8).toNat ∧ (3#8).toNat < State.reset.params.nsess := by
  decide
theorem witness_RxStartOfTransferBeginsAReception :
    (3#8).toNat < (capped 8 State.reset).params.nsess ∧ (0xE0#8).getLsbD 7 = true ∧ (0xE0#8).getLsbD 6 = true
    ∧ (0xA0#8).getLsbD 7 = true ∧ (0xA0#8).getLsbD 6 = false ∧ admits (capped 8 State.reset).params.rxCap 8 = true := by decide
/-- One byte more than `RX_CAP` holds, in a first frame and in a continuation frame. -/
theorem witness_RxCapacityEndsTheReception :
    (0#8).toNat < (capped 8 State.reset).params.nsess ∧ (0xA0#8).getLsbD 7 = true ∧ (0xA0#8).getLsbD 6 = false
    ∧ admits (capped 8 State.reset).params.rxCap 9 = false ∧ (0x00#8).getLsbD 7 = false
    ∧ (capped 8 (slotIs ⟨.accumulating, 0, false, [1]⟩)).rx[(0#8).toNat]? = some ⟨.accumulating, 0, false, [1]⟩
    ∧ (0x00#8).extractLsb' 0 5 = (0#5) ∧ (0x00#8).getLsbD 5 = false
    ∧ admits (capped 8 State.reset).params.rxCap (1 + 8) = false := by decide +kernel
/-- One slot and tail for each clause. -/
theorem witness_RxContinuationChecksInOrder :
    (0#8).toNat < State.reset.params.nsess ∧ (0x21#8).getLsbD 7 = false ∧ (0x20#8).getLsbD 7 = false
    ∧ (slotIs ⟨.accumulating, 0, false, [1]⟩).rx[(0#8).toNat]? = some ⟨.accumulating, 0, false, [1]⟩
    ∧ State.reset.rx[(3#8).toNat]? = some ⟨.idle, 0, false, []⟩
    ∧ (0x21#8).extractLsb' 0 5 ≠ (0#5) ∧ (0x20#8).extractLsb' 0 5 = (0#5) ∧ (0x20#8).getLsbD 5 ≠ false := by decide +kernel
theorem witness_RxContinuationIsAccepted :
    (0#8).toNat < (capped 8 State.reset).params.nsess ∧ (0x00#8).getLsbD 7 = false ∧ (0x00#8).getLsbD 6 = false
    ∧ (capped 8 (slotIs ⟨.accumulating, 0, false, [1]⟩)).rx[(0#8).toNat]? = some ⟨.accumulating, 0, false, [1]⟩
    ∧ (0x00#8).extractLsb' 0 5 = (0#5) ∧ (0x00#8).getLsbD 5 = false ∧ admits (.bytes 8) (1 + 7) = true := by decide +kernel
/-- An EOT frame; a buffer of one byte, and one that ends in two CRC bytes, right or wrong. -/
theorem witness_RxCompletionChecksTheCrc :
    (0#8).toNat < State.reset.params.nsess ∧ (0x40#8).getLsbD 7 = false ∧ (0x40#8).getLsbD 6 = true
    ∧ (slotIs ⟨.accumulating, 0, false, [0x31]⟩).rx[(0#8).toNat]? = some ⟨.accumulating, 0, false, [0x31]⟩
    ∧ (0x40#8).extractLsb' 0 5 = (0#5) ∧ (0x40#8).getLsbD 5 = false ∧ admits .unbounded (1 + 2) = true
    ∧ ([0x31] ++ [] : Bytes).length < 2 ∧ ([0x31] ++ [0xC7, 0x82] : Bytes) = [0x31] ++ [0xC7, 0x82]
    ∧ (crc16ccitt [0x31]).toNat = (0xC7#8).toNat * 256 + (0x82#8).toNat
    ∧ (crc16ccitt [0x31]).toNat ≠ (0xC7#8).toNat * 256 + (0x83#8).toNat := by decide +kernel
theorem witness_RxResetClearsTheSlot :
    (0x0361 : Word).extractLsb' 0 8 = 0x61#8 ∧ State.reset.params.nsess ≤ (4#8).toNat ∧ ¬ State.reset.params.nsess ≤ (3#8).toNat := by
  decide
theorem witness_RxStateReadsTheSlot :
    (0x0362 : Word).extractLsb' 0 8 = 0x62#8 ∧ State.reset.params.nsess ≤ (4#8).toNat ∧ (3#8).toNat < State.reset.params.nsess
    ∧ State.reset.rx[(3#8).toNat]? = some ⟨.idle, 0, false, []⟩ := by decide +kernel
theorem witness_RxStartOfTransferSupersedes :
    (3#8).toNat < State.reset.params.nsess ∧ (0x80#8).getLsbD 7 = true := by decide
theorem witness_RxDuplicateContinuationIsDetected :
    (0#8).toNat < State.reset.params.nsess ∧ (0x05#8).getLsbD 7 = false ∧ (0x05#8).getLsbD 6 = false
    ∧ (slotIs ⟨.accumulating, 5, false, [0x11, 0x22]⟩).rx[(0#8).toNat]? = some ⟨.accumulating, 5, false, [0x11, 0x22]⟩
    ∧ (0x05#8).extractLsb' 0 5 = (5#5) ∧ (0x05#8).getLsbD 5 = false ∧ admits .unbounded (2 + 1) = true := by decide +kernel
theorem witness_ReassemblyInvertsSerialization :
    (3#8).toNat < State.reset.params.nsess ∧ (3#8).toNat < State.reset.rx.length ∧ (1 : Nat) ≤ 1
    ∧ admits State.reset.params.rxCap (txStream [0xAA, 0xBB] 1).bytes.length = true := by decide +kernel

end Sys2Proof.Tests
end

section
/-! PROOFS. The invariant of the registers (spec/10_state.md R25 to R32): each unit's commands keep that unit's invariant, every
command keeps the whole state's, and so does every step. -/

namespace Sys2Proof.Machine

/-! ### Padding and frame counts -/

/-- Padding never lengthens past `M` (R116). -/
theorem add_requiredPadding_le {n m : Nat} (h : n ≤ m) : n + requiredPadding n m ≤ m := by
  unfold requiredPadding
  split
  case h_1 l hl =>
    have hnl : n ≤ l ∧ l ≤ m := by simpa using List.find?_some hl
    omega
  case h_2 => exact h

/-- One chunk holds what is no longer than a chunk. -/
theorem ceilDiv_le_one {a b : Nat} (h : a ≤ b) (hb : 1 ≤ b) : ceilDiv a b ≤ 1 :=
  Nat.le_of_lt_succ (Nat.div_lt_of_lt_mul (by omega))

/-- What is not empty takes a chunk. -/
theorem one_le_ceilDiv {a b : Nat} (ha : 1 ≤ a) (hb : 1 ≤ b) : 1 ≤ ceilDiv a b :=
  Nat.div_pos (by omega) hb

/-- The frame count of a sealed transfer is the number of its stream's chunks, one at least: a single frame's padded payload
fits one chunk, and a multi-frame stream is not empty, for it ends in the CRC (R171). -/
theorem txStream_frames (p : Bytes) {m : Nat} (hm : 1 ≤ m) :
    (txStream p m).frames = max 1 (ceilDiv (txStream p m).bytes.length m) := by
  by_cases hp : p.length ≤ m
  · have hfit : ceilDiv (p.length + requiredPadding p.length m) m ≤ 1 := ceilDiv_le_one (add_requiredPadding_le hp) hm
    simpa [txStream, hp] using hfit
  · have hpos : 1 ≤ ceilDiv (p.length + (multiPad p.length m + 2)) m := one_le_ceilDiv (by omega) hm
    simpa [txStream, hp] using hpos

/-! ### The invariant of one unit, phase by phase -/

theorem Ser.inv_idle_iff {cap : Capacity} {r : Ser} (h : r.phase = .idle) :
    r.Inv cap ↔ r.payload = [] ∧ r.stream = [] ∧ r.n = 0 ∧ r.k = 0 := by
  simp +contextual [Ser.Inv, h, admits_zero]

theorem Ser.inv_collect_iff {cap : Capacity} {r : Ser} (h : r.phase = .collect) :
    r.Inv cap ↔ r.m ≠ 0 ∧ admits cap r.payload.length = true ∧ r.stream = [] ∧ r.n = 0 ∧ r.k = 0 := by
  simp [Ser.Inv, h]

theorem Ser.inv_emit_iff {cap : Capacity} {r : Ser} (h : r.phase = .emit) :
    r.Inv cap ↔ r.m ≠ 0 ∧ r.payload = [] ∧ r.k ≤ r.n ∧ r.n = max 1 (ceilDiv r.stream.length r.m.toNat) := by
  simp +contextual [Ser.Inv, h, admits_zero]

theorem Ser.inv_reset (cap : Capacity) : Ser.reset.Inv cap :=
  (Ser.inv_idle_iff rfl).mpr ⟨rfl, rfl, rfl, rfl⟩

/-- An empty queue meets the invariant in every phase with a chunk length. -/
theorem Rf.inv_of_empty (cap : Capacity) {r : Rf} (hc : r.phase ≠ .idle → r.c ≠ 0) (hq : r.q = []) : r.Inv cap :=
  ⟨hc, by simp [hq, admits_zero], fun _ => hq⟩

theorem Rf.inv_reset (cap : Capacity) : Rf.reset.Inv cap :=
  Rf.inv_of_empty cap (absurd rfl) rfl

/-- A slot with an empty buffer meets the invariant in either phase. -/
theorem RxSlot.inv_of_empty (cap : Capacity) {r : RxSlot} (h : r.buf = []) : r.Inv cap :=
  ⟨by simp [h, admits_zero], fun _ => h⟩

/-! ### The invariant under the state updates -/

theorem State.inv_emit {s : State} (h : s.Inv) (r : Response) : (s.emit r).Inv := h

theorem State.inv_cmds {s : State} (h : s.Inv) (cs : List Command) : ({ s with cmds := cs } : State).Inv := h

theorem State.inv_withCrc {s : State} (h : s.Inv) (v : BitVec 16) : (s.withCrc v).Inv := h

theorem State.inv_withSer {s : State} {v : Ser} (h : s.Inv) (hv : v.Inv s.params.txCap) : (s.withSer v).Inv :=
  let ⟨hlegal, hlen, _, hrf, hrx⟩ := h
  ⟨hlegal, hlen, hv, hrf, hrx⟩

theorem State.inv_withRf {s : State} {v : Rf} (h : s.Inv) (hv : v.Inv s.params.rfCap) : (s.withRf v).Inv :=
  let ⟨hlegal, hlen, hser, _, hrx⟩ := h
  ⟨hlegal, hlen, hser, hv, hrx⟩

theorem State.inv_withSlot {s : State} {v : RxSlot} (h : s.Inv) (i : Nat) (hv : v.Inv s.params.rxCap) :
    (s.withSlot i v).Inv := by
  obtain ⟨hlegal, hlen, hser, hrf, hrx⟩ := h
  refine ⟨hlegal, by simpa using hlen, hser, hrf, fun r hr => ?_⟩
  obtain hmem | rfl := List.mem_or_eq_of_mem_set hr
  · exact hrx r hmem
  · exact hv

theorem State.inv_applyReset {s : State} (h : s.Inv) : s.applyReset.Inv := by
  obtain ⟨hlegal, _⟩ := h
  refine ⟨hlegal, by simp, Ser.inv_reset _, Rf.inv_reset _, fun r hr => ?_⟩
  obtain rfl := List.eq_of_mem_replicate hr
  exact RxSlot.inv_of_empty _ rfl

/-- Every slot that can be read meets the invariant; one beyond the file reads as a reset slot. -/
theorem State.slot_inv {s : State} (h : s.Inv) (i : Nat) : (s.slot i).Inv s.params.rxCap := by
  obtain ⟨_, _, _, _, hrx⟩ := h
  by_cases hi : i < s.rx.length
  · have hslot : s.slot i = s.rx[i] := by simp [State.slot, hi]
    exact hslot ▸ hrx _ (List.getElem_mem hi)
  · have hslot : s.slot i = RxSlot.reset := by simp [State.slot, hi]
    exact hslot ▸ RxSlot.inv_of_empty _ rfl

/-! ### One frame against one slot -/

/-- A completed reception leaves its slot idle and empty, whether the CRC verifies or not (R206). -/
theorem feedComplete_fst (r : RxSlot) (b : Bytes) (t : Tail) : (feedComplete r b t).1 = r.idled := by
  unfold feedComplete
  split <;> rfl

/-- What one frame leaves in a slot: what was there, an empty buffer, or a running reception within the capacity. -/
theorem feedSlot_fst_cases (cap : Capacity) (r : RxSlot) (d : Bytes) (t : Tail) :
    (feedSlot cap r d t).1 = r ∨ (feedSlot cap r d t).1.buf = []
      ∨ ((feedSlot cap r d t).1.phase = .accumulating ∧ admits cap (feedSlot cap r d t).1.buf.length = true) := by
  obtain ⟨_, _, hout⟩ | ⟨_, _, _, hout⟩ | ⟨_, _, hcap, hout⟩ | ⟨_, _, hout⟩ | ⟨_, _, _, hout⟩ | ⟨_, _, _, _, hout⟩
    | ⟨_, _, _, _, _, hout⟩ | ⟨_, _, _, _, hcap, _, hout⟩ | ⟨_, _, _, _, _, _, hout⟩ := feedSlot_cases cap r d t <;>
    rw [hout]
  · exact .inr (.inl rfl)
  · exact .inr (.inl rfl)
  · exact .inr (.inr ⟨rfl, hcap⟩)
  · exact .inl rfl
  · exact .inr (.inl rfl)
  · exact .inr (.inl rfl)
  · exact .inr (.inl rfl)
  · exact .inr (.inr ⟨rfl, by simpa using hcap⟩)
  · exact .inr (.inl (by rw [feedComplete_fst]; rfl))

/-- The slot keeps its invariant through every frame (R32, R207). -/
theorem feedSlot_inv {cap : Capacity} {r : RxSlot} (h : r.Inv cap) (d : Bytes) (t : Tail) :
    (feedSlot cap r d t).1.Inv cap := by
  obtain hsame | hempty | ⟨hphase, hcap⟩ := feedSlot_fst_cases cap r d t
  · rwa [hsame]
  · exact RxSlot.inv_of_empty cap hempty
  · exact ⟨hcap, fun hidle => by simp [hphase] at hidle⟩

/-! ### The commands -/

/-- A next state in the outcome `o`, reached from `s`, meets the invariant, and its parameters are those of `s`. -/
def KeepsInv (s : State) (o : Host.Outcome State Fault Refusal) : Prop :=
  ∀ t, o = .next t → t.Inv ∧ t.params = s.params

theorem respond_keepsInv {s u : State} {r : Reply} (hu : u.Inv) (hp : u.params = s.params) : KeepsInv s (respond r u) := by
  intro t ht
  obtain rfl := respond_next.mp ht
  exact ⟨State.inv_emit hu _, hp⟩

theorem raise_keepsInv {s : State} (h : s.Inv) (st : Status) : KeepsInv s (raise st s) :=
  respond_keepsInv h rfl

theorem execDlcCeil_keepsInv {s : State} (h : s.Inv) (n : BitVec 32) : KeepsInv s (execDlcCeil n s) := by
  unfold execDlcCeil
  split
  · exact respond_keepsInv h rfl
  · exact raise_keepsInv h _

theorem execPadReq_keepsInv {s : State} (h : s.Inv) (m : Byte) (n : BitVec 32) : KeepsInv s (execPadReq m n s) := by
  unfold execPadReq
  split
  · exact raise_keepsInv h _
  · exact respond_keepsInv h rfl

theorem execRfStart_keepsInv {s : State} (h : s.Inv) (c : BitVec 32) : KeepsInv s (execRfStart c s) := by
  unfold execRfStart
  split
  · exact raise_keepsInv h _
  next hc => exact respond_keepsInv (State.inv_withRf h (Rf.inv_of_empty _ (fun _ => hc) rfl)) rfl

theorem execRfPush_keepsInv {s : State} (h : s.Inv) (d : Bytes) : KeepsInv s (execRfPush d s) := by
  have ⟨_, _, _, ⟨hc, _, _⟩, _⟩ := h
  unfold execRfPush
  split_ifs with hphase hcap
  · exact raise_keepsInv h _
  · exact raise_keepsInv h _
  · have hphase := not_not.mp hphase
    have hnot : s.rf.phase ≠ .idle := by simp [hphase]
    exact respond_keepsInv (State.inv_withRf h ⟨hc, by simpa using hcap, fun hidle => absurd hidle hnot⟩) rfl

theorem execRfEnd_keepsInv {s : State} (h : s.Inv) : KeepsInv s (execRfEnd s) := by
  have ⟨_, _, _, ⟨hc, hq, _⟩, _⟩ := h
  unfold execRfEnd
  split_ifs with hphase
  · exact raise_keepsInv h _
  · have hphase := not_not.mp hphase
    have hnot : s.rf.phase ≠ .idle := by simp [hphase]
    exact respond_keepsInv (State.inv_withRf h ⟨fun _ => hc hnot, hq, nofun⟩) rfl

/-- RF.NEXT leaves a rest of the queue, so the capacity still holds it. -/
theorem execRfNext_keepsInv {s : State} (h : s.Inv) : KeepsInv s (execRfNext s) := by
  have ⟨_, _, _, ⟨hc, hq, _⟩, _⟩ := h
  simp only [execRfNext]
  split_ifs with hidle
  · exact raise_keepsInv h _
  · exact respond_keepsInv (State.inv_withRf h ⟨hc, admits_mono (by simp) hq, fun h' => absurd h' hidle⟩) rfl
  · exact raise_keepsInv h _
  · exact respond_keepsInv (State.inv_withRf h (Rf.inv_of_empty _ hc rfl)) rfl
  · exact raise_keepsInv h _

theorem execSerStart_keepsInv {s : State} (h : s.Inv) (m tid : Byte) (lb : Bool) (ident : BitVec 32) :
    KeepsInv s (execSerStart m tid lb ident s) := by
  unfold execSerStart
  split_ifs with hm
  · exact raise_keepsInv h _
  · exact respond_keepsInv (State.inv_withSer h ((Ser.inv_collect_iff rfl).mpr ⟨hm, admits_zero _, rfl, rfl, rfl⟩)) rfl

theorem execSerFrag_keepsInv {s : State} (h : s.Inv) (d : Bytes) : KeepsInv s (execSerFrag d s) := by
  have ⟨_, _, hser, _, _⟩ := h
  unfold execSerFrag
  split_ifs with hphase hcap
  · exact raise_keepsInv h _
  · exact raise_keepsInv h _
  · have hphase := not_not.mp hphase
    obtain ⟨hm, _, hempty⟩ := (Ser.inv_collect_iff hphase).mp hser
    exact respond_keepsInv
      (State.inv_withSer h ((Ser.inv_collect_iff (by exact hphase)).mpr ⟨hm, by simpa using hcap, hempty⟩)) rfl

/-- SER.SEAL leaves the count of `txStream`'s own stream, and the cursor at the first frame. -/
theorem execSerSeal_keepsInv {s : State} (h : s.Inv) : KeepsInv s (execSerSeal s) := by
  have ⟨_, _, hser, _, _⟩ := h
  unfold execSerSeal
  split_ifs with hphase
  · exact raise_keepsInv h _
  · have hphase := not_not.mp hphase
    obtain ⟨hm, _⟩ := (Ser.inv_collect_iff hphase).mp hser
    have hpos : 1 ≤ s.ser.m.toNat := Nat.pos_of_ne_zero (by simpa [BitVec.toNat_eq] using hm)
    exact respond_keepsInv
      (State.inv_withSer h ((Ser.inv_emit_iff rfl).mpr ⟨hm, rfl, Nat.zero_le _, txStream_frames _ hpos⟩)) rfl

/-- SER.NEXT moves the cursor only while it has not reached the count. -/
theorem execSerNext_keepsInv {s : State} (h : s.Inv) : KeepsInv s (execSerNext s) := by
  have ⟨_, _, hser, _, _⟩ := h
  unfold execSerNext
  split_ifs with hphase hlast
  · exact raise_keepsInv h _
  · exact raise_keepsInv h _
  · have hphase := not_not.mp hphase
    obtain ⟨hm, hpayload, hk, hn⟩ := (Ser.inv_emit_iff hphase).mp hser
    exact respond_keepsInv
      (State.inv_withSer h ((Ser.inv_emit_iff (by exact hphase)).mpr ⟨hm, hpayload, Nat.lt_of_le_of_ne hk hlast, hn⟩)) rfl

theorem execSerAbort_keepsInv {s : State} (h : s.Inv) : KeepsInv s (execSerAbort s) :=
  respond_keepsInv (State.inv_withSer h ((Ser.inv_idle_iff rfl).mpr ⟨rfl, rfl, rfl, rfl⟩)) rfl

theorem execRxFeed_keepsInv {s : State} (h : s.Inv) (slot : Byte) (w : Bytes) : KeepsInv s (execRxFeed slot w s) := by
  unfold execRxFeed
  split
  · exact raise_keepsInv h _
  next i _ =>
    split
    · exact raise_keepsInv h _
    · exact respond_keepsInv (State.inv_withSlot h i (feedSlot_inv (State.slot_inv h i) _ _)) rfl

theorem execRxReset_keepsInv {s : State} (h : s.Inv) (slot : Byte) : KeepsInv s (execRxReset slot s) := by
  unfold execRxReset
  split
  · exact raise_keepsInv h _
  next i _ => exact respond_keepsInv (State.inv_withSlot h i (RxSlot.inv_of_empty _ rfl)) rfl

theorem execRxState_keepsInv {s : State} (h : s.Inv) (slot : Byte) : KeepsInv s (execRxState slot s) := by
  unfold execRxState
  split
  · exact raise_keepsInv h _
  · exact respond_keepsInv h rfl

/-- Every command keeps the invariant and the parameters. -/
theorem exec_keepsInv {s : State} (h : s.Inv) (i : Instr) : KeepsInv s (exec i s) := by
  cases i with
  | nop => exact respond_keepsInv h rfl
  | reset => exact respond_keepsInv (State.inv_applyReset h) rfl
  | dlcCeil n => exact execDlcCeil_keepsInv h n
  | padReq m n => exact execPadReq_keepsInv h m n
  | crcInit => exact respond_keepsInv (State.inv_withCrc h _) rfl
  | crcAddb b => exact respond_keepsInv (State.inv_withCrc h _) rfl
  | crcAdd d => exact respond_keepsInv (State.inv_withCrc h _) rfl
  | crcRead => exact respond_keepsInv h rfl
  | tailEnc sot eot tgl tid => exact respond_keepsInv h rfl
  | tailDec t => exact respond_keepsInv h rfl
  | rfStart c => exact execRfStart_keepsInv h c
  | rfPush d => exact execRfPush_keepsInv h d
  | rfEnd => exact execRfEnd_keepsInv h
  | rfNext => exact execRfNext_keepsInv h
  | serStart m tid lb ident => exact execSerStart_keepsInv h m tid lb ident
  | serFrag d => exact execSerFrag_keepsInv h d
  | serSeal => exact execSerSeal_keepsInv h
  | serNext => exact execSerNext_keepsInv h
  | serAbort => exact execSerAbort_keepsInv h
  | rxFeed slot w => exact execRxFeed_keepsInv h slot w
  | rxReset slot => exact execRxReset_keepsInv h slot
  | rxState slot => exact execRxState_keepsInv h slot

/-- Settles O17: an empty port holds the state, a decoded command keeps the invariant, and an illegal one only answers. -/
theorem stepKeepsTheInvariant : Obligations.StepKeepsTheInvariant := by
  intro s t h hstep
  obtain ⟨_, hheld⟩ | ⟨_, rest, i, _, _, hexec⟩ | ⟨_, rest, _, _, _, hraise⟩ := step_cases s
  · cases hheld.symm.trans hstep
    exact ⟨h, rfl⟩
  · exact exec_keepsInv (State.inv_cmds h rest) i t (hexec.symm.trans hstep)
  · exact raise_keepsInv (State.inv_cmds h rest) _ t (hraise.symm.trans hstep)

end Sys2Proof.Machine
end

section
/-! PROOFS. The frame of every command (spec/10_state.md R20, spec/20_memory.md R60, R64): a command writes the registers of one
unit at most, which is its own unit or, for a command that only reads, none; then it answers. -/

namespace Sys2Proof.Machine

/-! ### Writing one unit's registers -/

/-- `WritesOnly s u t`: the state `t` is `s` with nothing written, or with a write to the registers of the unit `u`. -/
inductive WritesOnly (s : State) : EngineUnit → State → Prop where
  | nothing (u : EngineUnit) : WritesOnly s u s
  | crc (v : BitVec 16) : WritesOnly s .crc (s.withCrc v)
  | ser (v : Ser) : WritesOnly s .ser (s.withSer v)
  | rf (v : Rf) : WritesOnly s .rf (s.withRf v)
  | slot (i : Nat) (v : RxSlot) : WritesOnly s (.slot i) (s.withSlot i v)

theorem WritesOnly.eq_of_none {s t : State} (h : WritesOnly s .none t) : t = s := by
  cases h
  rfl

theorem WritesOnly.params {s t : State} {u : EngineUnit} (h : WritesOnly s u t) : t.params = s.params := by
  cases h <;> rfl

theorem WritesOnly.cmds {s t : State} {u : EngineUnit} (h : WritesOnly s u t) : t.cmds = s.cmds := by
  cases h <;> rfl

theorem WritesOnly.resps {s t : State} {u : EngineUnit} (h : WritesOnly s u t) : t.resps = s.resps := by
  cases h <;> rfl

theorem WritesOnly.crc_eq {s t : State} {u : EngineUnit} (h : WritesOnly s u t) (hu : u ≠ .crc) : t.crc = s.crc := by
  cases h with
  | crc v => exact absurd rfl hu
  | _ => rfl

theorem WritesOnly.ser_eq {s t : State} {u : EngineUnit} (h : WritesOnly s u t) (hu : u ≠ .ser) : t.ser = s.ser := by
  cases h with
  | ser v => exact absurd rfl hu
  | _ => rfl

theorem WritesOnly.rf_eq {s t : State} {u : EngineUnit} (h : WritesOnly s u t) (hu : u ≠ .rf) : t.rf = s.rf := by
  cases h with
  | rf v => exact absurd rfl hu
  | _ => rfl

theorem WritesOnly.rx_length {s t : State} {u : EngineUnit} (h : WritesOnly s u t) : t.rx.length = s.rx.length := by
  cases h with
  | slot i v => exact List.length_set
  | _ => rfl

/-- A write to one slot leaves the others (R214). -/
theorem WritesOnly.rx_getElem? {s t : State} {u : EngineUnit} (h : WritesOnly s u t) {j : Nat} (hu : u ≠ .slot j) :
    t.rx[j]? = s.rx[j]? := by
  cases h with
  | slot i v => exact List.getElem?_set_ne (by rintro rfl; exact hu rfl)
  | _ => rfl

/-! ### The unit a command writes -/

/-- The unit whose registers a command may write: its own, except that CRC.READ and RX.STATE only read theirs (R60). -/
def writtenUnit : Instr → EngineUnit
  | .crcRead => .none
  | .rxState _ => .none
  | i => unitOf i

/-- The commands that write nothing are R60's list. -/
theorem writtenUnit_eq_none_iff (i : Instr) :
    writtenUnit i = .none ↔ mnemonic i = .nop ∨ mnemonic i = .dlcCeil ∨ mnemonic i = .padReq ∨ mnemonic i = .crcRead
      ∨ mnemonic i = .tailEnc ∨ mnemonic i = .tailDec ∨ mnemonic i = .rxState := by
  cases i <;> simp [writtenUnit, unitOf, mnemonic]

theorem writtenUnit_eq_none_or_unitOf (i : Instr) : writtenUnit i = .none ∨ writtenUnit i = unitOf i := by
  unfold writtenUnit
  split
  · exact .inl rfl
  · exact .inl rfl
  · exact .inr rfl

/-- What a command writes is among its own unit's registers. -/
theorem WritesOnly.own_unit {s t : State} {i : Instr} (h : WritesOnly s (writtenUnit i) t) :
    WritesOnly s (unitOf i) t := by
  obtain hnone | hown := writtenUnit_eq_none_or_unitOf i
  · rw [hnone] at h
    rw [h.eq_of_none]
    exact .nothing _
  · rwa [hown] at h

/-! ### The commands -/

/-- The outcome `o`, reached from `s`, is a write to the unit `u` at most, and then one response. -/
def AnswersWriting (u : EngineUnit) (s : State) (o : Host.Outcome State Fault Refusal) : Prop :=
  ∃ (t : State) (r : Response), WritesOnly s u t ∧ o = .next (t.emit r)

theorem respond_answersWriting {u : EngineUnit} {s t : State} (h : WritesOnly s u t) (r : Reply) :
    AnswersWriting u s (respond r t) :=
  ⟨t, packReply r, h, rfl⟩

theorem respond_answersWriting_nothing (u : EngineUnit) (s : State) (r : Reply) : AnswersWriting u s (respond r s) :=
  respond_answersWriting (.nothing u) r

theorem raise_answersWriting (u : EngineUnit) (s : State) (st : Status) : AnswersWriting u s (raise st s) :=
  respond_answersWriting_nothing u s _

theorem execDlcCeil_answersWriting (n : BitVec 32) (s : State) : AnswersWriting .none s (execDlcCeil n s) := by
  unfold execDlcCeil
  split
  · exact respond_answersWriting_nothing _ _ _
  · exact raise_answersWriting _ _ _

theorem execPadReq_answersWriting (m : Byte) (n : BitVec 32) (s : State) :
    AnswersWriting .none s (execPadReq m n s) := by
  unfold execPadReq
  split
  · exact raise_answersWriting _ _ _
  · exact respond_answersWriting_nothing _ _ _

theorem execRfStart_answersWriting (c : BitVec 32) (s : State) : AnswersWriting .rf s (execRfStart c s) := by
  unfold execRfStart
  split
  · exact raise_answersWriting _ _ _
  · exact respond_answersWriting (.rf _) _

theorem execRfPush_answersWriting (d : Bytes) (s : State) : AnswersWriting .rf s (execRfPush d s) := by
  unfold execRfPush
  split_ifs
  · exact raise_answersWriting _ _ _
  · exact raise_answersWriting _ _ _
  · exact respond_answersWriting (.rf _) _

theorem execRfEnd_answersWriting (s : State) : AnswersWriting .rf s (execRfEnd s) := by
  unfold execRfEnd
  split
  · exact raise_answersWriting _ _ _
  · exact respond_answersWriting (.rf _) _

theorem execRfNext_answersWriting (s : State) : AnswersWriting .rf s (execRfNext s) := by
  simp only [execRfNext]
  split_ifs
  · exact raise_answersWriting _ _ _
  · exact respond_answersWriting (.rf _) _
  · exact raise_answersWriting _ _ _
  · exact respond_answersWriting (.rf _) _
  · exact raise_answersWriting _ _ _

theorem execSerStart_answersWriting (m tid : Byte) (lb : Bool) (ident : BitVec 32) (s : State) :
    AnswersWriting .ser s (execSerStart m tid lb ident s) := by
  unfold execSerStart
  split
  · exact raise_answersWriting _ _ _
  · exact respond_answersWriting (.ser _) _

theorem execSerFrag_answersWriting (d : Bytes) (s : State) : AnswersWriting .ser s (execSerFrag d s) := by
  unfold execSerFrag
  split_ifs
  · exact raise_answersWriting _ _ _
  · exact raise_answersWriting _ _ _
  · exact respond_answersWriting (.ser _) _

theorem execSerSeal_answersWriting (s : State) : AnswersWriting .ser s (execSerSeal s) := by
  unfold execSerSeal
  split
  · exact raise_answersWriting _ _ _
  · exact respond_answersWriting (.ser _) _

theorem execSerNext_answersWriting (s : State) : AnswersWriting .ser s (execSerNext s) := by
  unfold execSerNext
  split_ifs
  · exact raise_answersWriting _ _ _
  · exact raise_answersWriting _ _ _
  · exact respond_answersWriting (.ser _) _

/-- RX.FEED writes the slot named in `A`, whatever the frame does to it. -/
theorem execRxFeed_answersWriting (slot : Byte) (w : Bytes) (s : State) :
    AnswersWriting (.slot slot.toNat) s (execRxFeed slot w s) := by
  unfold execRxFeed
  split
  · exact raise_answersWriting _ _ _
  next i hi =>
    obtain ⟨rfl, _⟩ := slotOperand_eq_some.mp hi
    split
    · exact raise_answersWriting _ _ _
    · exact respond_answersWriting (.slot _ _) _

theorem execRxReset_answersWriting (slot : Byte) (s : State) :
    AnswersWriting (.slot slot.toNat) s (execRxReset slot s) := by
  unfold execRxReset
  split
  · exact raise_answersWriting _ _ _
  next i hi =>
    obtain ⟨rfl, _⟩ := slotOperand_eq_some.mp hi
    exact respond_answersWriting (.slot _ _) _

theorem execRxState_answersWriting (slot : Byte) (s : State) : AnswersWriting .none s (execRxState slot s) := by
  unfold execRxState
  split
  · exact raise_answersWriting _ _ _
  · exact respond_answersWriting_nothing _ _ _

/-- Every command but RESET writes at most the unit `writtenUnit` names, and answers once. -/
theorem exec_answersWriting (i : Instr) (s : State) (h : unitOf i ≠ .all) :
    AnswersWriting (writtenUnit i) s (exec i s) := by
  cases i with
  | nop => exact respond_answersWriting_nothing _ _ _
  | reset => exact absurd rfl h
  | dlcCeil n => exact execDlcCeil_answersWriting n s
  | padReq m n => exact execPadReq_answersWriting m n s
  | crcInit => exact respond_answersWriting (.crc _) _
  | crcAddb b => exact respond_answersWriting (.crc _) _
  | crcAdd d => exact respond_answersWriting (.crc _) _
  | crcRead => exact respond_answersWriting_nothing _ _ _
  | tailEnc sot eot tgl tid => exact respond_answersWriting_nothing _ _ _
  | tailDec t => exact respond_answersWriting_nothing _ _ _
  | rfStart c => exact execRfStart_answersWriting c s
  | rfPush d => exact execRfPush_answersWriting d s
  | rfEnd => exact execRfEnd_answersWriting s
  | rfNext => exact execRfNext_answersWriting s
  | serStart m tid lb ident => exact execSerStart_answersWriting m tid lb ident s
  | serFrag d => exact execSerFrag_answersWriting d s
  | serSeal => exact execSerSeal_answersWriting s
  | serNext => exact execSerNext_answersWriting s
  | serAbort => exact respond_answersWriting (.ser _) _
  | rxFeed slot w => exact execRxFeed_answersWriting slot w s
  | rxReset slot => exact execRxReset_answersWriting slot s
  | rxState slot => exact execRxState_answersWriting slot s

/-- Settles O19: the frame of a write to the command's own unit, and for R60's list of readings no write at all. -/
theorem commandsChangeOnlyTheirUnit : Obligations.CommandsChangeOnlyTheirUnit := by
  intro i s hi
  obtain ⟨t, r, hwritten, hexec⟩ := exec_answersWriting i s hi
  have hown : WritesOnly s (unitOf i) t := hwritten.own_unit
  have hread : writtenUnit i = .none → SameRegisters (t.emit r) s := by
    intro hnone
    rw [hnone] at hwritten
    obtain rfl := hwritten.eq_of_none
    exact ⟨rfl, rfl, rfl, rfl, rfl⟩
  exact ⟨t.emit r, r, hexec, hown.params, hown.cmds, congrArg (· ++ [r]) hown.resps, hown.crc_eq, hown.ser_eq, hown.rf_eq,
    hown.rx_length, fun _ => hown.rx_getElem?, fun h => hread ((writtenUnit_eq_none_iff i).mpr h)⟩

end Sys2Proof.Machine
end

section
/-! PROOFS. The fields of the command word (spec/30_encoding.md R71), and decoding after encoding (R73, R75). -/

namespace Sys2Proof

/-! ### Each field of a packed word -/

/-- A bit of the packed word is a bit of the field that holds its place (R71). -/
theorem getLsbD_packWord (opc a b f : Byte) (w : BitVec 32) {k : Nat} (hk : k < 64) :
    (packWord opc a b f w).getLsbD k =
      (opc.getLsbD k || !decide (k < 8) && a.getLsbD (k - 8) || !decide (k < 16) && b.getLsbD (k - 16)
        || !decide (k < 24) && f.getLsbD (k - 24) || !decide (k < 32) && w.getLsbD (k - 32)) := by
  have hshift (n : Nat) : k - n < 64 := by omega
  simp only [packWord, BitVec.getLsbD_or, BitVec.getLsbD_shiftLeft, BitVec.getLsbD_setWidth, hk, hshift, decide_true,
    Bool.true_and]

@[simp] theorem fieldOpc_packWord (opc a b f : Byte) (w : BitVec 32) : fieldOpc (packWord opc a b f w) = opc :=
  BitVec.eq_of_getLsbD_eq fun i hi => by grind [fieldOpc, getLsbD_packWord]

@[simp] theorem fieldA_packWord (opc a b f : Byte) (w : BitVec 32) : fieldA (packWord opc a b f w) = a :=
  BitVec.eq_of_getLsbD_eq fun i hi => by grind [fieldA, getLsbD_packWord]

@[simp] theorem fieldB_packWord (opc a b f : Byte) (w : BitVec 32) : fieldB (packWord opc a b f w) = b :=
  BitVec.eq_of_getLsbD_eq fun i hi => by grind [fieldB, getLsbD_packWord]

@[simp] theorem fieldF_packWord (opc a b f : Byte) (w : BitVec 32) : fieldF (packWord opc a b f w) = f :=
  BitVec.eq_of_getLsbD_eq fun i hi => by grind [fieldF, getLsbD_packWord]

@[simp] theorem fieldW_packWord (opc a b f : Byte) (w : BitVec 32) : fieldW (packWord opc a b f w) = w :=
  BitVec.eq_of_getLsbD_eq fun i hi => by grind [fieldW, getLsbD_packWord]

@[simp] theorem flagF_packWord (opc a b f : Byte) (w : BitVec 32) (i : Nat) :
    flagF (packWord opc a b f w) i = f.getLsbD i := by
  simp [flagF]

/-- One flag is the bit of its own number. -/
theorem getLsbD_flagBit (x : Bool) (i j : Nat) (hi : i < 8) : (flagBit x i).getLsbD j = (decide (j = i) && x) := by
  simp only [flagBit, BitVec.getLsbD_shiftLeft, BitVec.getLsbD_setWidth, BitVec.getLsbD_ofBool]
  grind

/-! ### The encoding of an instruction -/

theorem fieldOpc_encode (i : Instr) : fieldOpc (encode i).word = opcodeOf (mnemonic i) := by
  cases i <;> exact fieldOpc_packWord _ _ _ _ _

/-- The operands read back are those the instruction was encoded from. -/
theorem readOperands_encode (i : Instr) : readOperands (encode i) (mnemonic i) = i := by
  cases i <;> simp [encode, mnemonic, readOperands, getLsbD_flagBit, -BitVec.getLsbD_eq_getElem]

/-- Decoding an encoding gives the instruction back (R73, R75). -/
theorem decode_encode (i : Instr) : decode (encode i) = .ok i := by
  have hop : mnemonicOf (fieldOpc (encode i).word) = some (mnemonic i) := by rw [fieldOpc_encode, mnemonicOf_opcodeOf]
  rw [decode_of_mnemonicOf hop, readOperands_encode]

end Sys2Proof
end

section
/-! PROOFS. A port narrower than a word (spec/20_memory.md R56): each bit of the word stands in the byte that carries it. -/

namespace Sys2Proof.Machine

@[simp] theorem length_wordBytesLittle (w : Word) : (wordBytesLittle w).length = 8 := by
  simp [wordBytesLittle]

/-- Byte `k / 8` carries bit `k` of the word, as its bit `k % 8`. -/
theorem wordBytesLittle_bit (w : Word) {k : Nat} (hk : k < 64) :
    ((wordBytesLittle w).getD (k / 8) 0).getLsbD (k % 8) = w.getLsbD k := by
  have hbyte : k / 8 < 8 := by omega
  have hbit : 8 * (k / 8) + k % 8 = k := Nat.div_add_mod k 8
  simp [wordBytesLittle, hbyte, hbit, Nat.mod_lt]

/-- Bit `k` of the word is bit `k % 8` of byte `k / 8`, and 0 where no byte stands. -/
theorem wordOfBytesLittle_bit (bs : Bytes) {k : Nat} (hk : k < 64) :
    (wordOfBytesLittle bs).getLsbD k = (bs.getD (k / 8) 0).getLsbD (k % 8) := by
  induction bs generalizing k with
  | nil => simp [wordOfBytesLittle]
  | cons b bs ih =>
    have hcons : wordOfBytesLittle (b :: bs) = wordOfBytesLittle bs <<< 8 ||| b.setWidth 64 := rfl
    by_cases hlow : k < 8
    · simp [hcons, hk, hlow, Nat.div_eq_of_lt, Nat.mod_eq_of_lt]
    · obtain ⟨j, rfl⟩ : ∃ j, k = j + 8 := ⟨k - 8, by omega⟩
      have hj : j < 64 := by omega
      simp [hcons, hk, ih hj, -BitVec.getLsbD_eq_getElem]

theorem wordOfBytesLittle_wordBytesLittle (w : Word) : wordOfBytesLittle (wordBytesLittle w) = w := by
  refine BitVec.eq_of_getLsbD_eq fun k hk => ?_
  rw [wordOfBytesLittle_bit _ hk, wordBytesLittle_bit w hk]

/-- Settles O9: the round trip least significant byte first; the other order reverses the bytes on both sides. -/
theorem wordByteOrderDoesNotMatter : Obligations.WordByteOrderDoesNotMatter := by
  intro order w
  cases order with
  | little => exact ⟨length_wordBytesLittle w, wordOfBytesLittle_wordBytesLittle w⟩
  | big =>
    refine ⟨by simp [wordToBytes], ?_⟩
    simp only [wordOfBytes, wordToBytes, List.reverse_reverse]
    exact wordOfBytesLittle_wordBytesLittle w

end Sys2Proof.Machine
end

section
/-! PROOFS. What a command reads (spec/20_memory.md R60, R63, R64): the parameters and the registers of its own unit. Two states
that agree there get the same response and still agree there afterwards; with the frame of each command this gives the exchange
of commands of different units, the repeated readings, and a command's independence of the ports. -/

namespace Sys2Proof.Machine

/-! ### Two states that agree on a unit's registers -/

/-- The states `s` and `t` have the same parameters and the same registers of the unit `u`. -/
def AgreesOn (s t : State) : EngineUnit → Prop
  | .none => s.params = t.params
  | .crc => s.params = t.params ∧ s.crc = t.crc
  | .ser => s.params = t.params ∧ s.ser = t.ser
  | .rf => s.params = t.params ∧ s.rf = t.rf
  | .slot i => s.params = t.params ∧ s.rx[i]? = t.rx[i]?
  | .all => SameRegisters s t

theorem AgreesOn.params {s t : State} {u : EngineUnit} (h : AgreesOn s t u) : s.params = t.params := by
  cases u with
  | none => exact h
  | _ => exact h.1

theorem SameRegisters.agreesOn {s t : State} (h : SameRegisters s t) (u : EngineUnit) : AgreesOn s t u := by
  have ⟨hparams, hcrc, hser, hrf, hrx⟩ := h
  cases u with
  | none => exact hparams
  | crc => exact ⟨hparams, hcrc⟩
  | ser => exact ⟨hparams, hser⟩
  | rf => exact ⟨hparams, hrf⟩
  | slot i => exact ⟨hparams, congrArg (·[i]?) hrx⟩
  | all => exact h

/-- The registers are those of the single units (R20). -/
theorem SameRegisters.of_agreesOn {s t : State} (h : ∀ u, u ≠ .all → AgreesOn s t u) : SameRegisters s t := by
  obtain ⟨hparams, hcrc⟩ := h .crc nofun
  obtain ⟨_, hser⟩ := h .ser nofun
  obtain ⟨_, hrf⟩ := h .rf nofun
  exact ⟨hparams, hcrc, hser, hrf, List.ext_getElem? fun i => (h (.slot i) nofun).2⟩

theorem AgreesOn.refl (s : State) (u : EngineUnit) : AgreesOn s s u :=
  SameRegisters.agreesOn ⟨rfl, rfl, rfl, rfl, rfl⟩ u

theorem AgreesOn.symm {s t : State} {u : EngineUnit} (h : AgreesOn s t u) : AgreesOn t s u := by
  cases u with
  | none => exact Eq.symm h
  | all =>
    obtain ⟨hparams, hcrc, hser, hrf, hrx⟩ := h
    exact ⟨hparams.symm, hcrc.symm, hser.symm, hrf.symm, hrx.symm⟩
  | _ => exact ⟨h.1.symm, h.2.symm⟩

theorem AgreesOn.trans {s t v : State} {u : EngineUnit} (h : AgreesOn s t u) (h' : AgreesOn t v u) : AgreesOn s v u := by
  cases u with
  | none => exact Eq.trans h h'
  | all =>
    obtain ⟨hparams, hcrc, hser, hrf, hrx⟩ := h
    obtain ⟨hparams', hcrc', hser', hrf', hrx'⟩ := h'
    exact ⟨hparams.trans hparams', hcrc.trans hcrc', hser.trans hser', hrf.trans hrf', hrx.trans hrx'⟩
  | _ => exact ⟨h.1.trans h'.1, h.2.trans h'.2⟩

/-- The response port is no register. -/
theorem AgreesOn.emit_self (s : State) (r : Response) (u : EngineUnit) : AgreesOn s (s.emit r) u :=
  SameRegisters.agreesOn ⟨rfl, rfl, rfl, rfl, rfl⟩ u

/-- A write to one unit, or no write, leaves the registers of every other unit. -/
theorem WritesOnly.agreesOn {s t : State} {u v : EngineUnit} (h : WritesOnly s u t) (hne : u = .none ∨ u ≠ v)
    (hall : v ≠ .all) : AgreesOn s t v := by
  obtain rfl | hne := hne
  · rw [h.eq_of_none]
    exact .refl s v
  · cases v with
    | none => exact h.params.symm
    | crc => exact ⟨h.params.symm, (h.crc_eq hne).symm⟩
    | ser => exact ⟨h.params.symm, (h.ser_eq hne).symm⟩
    | rf => exact ⟨h.params.symm, (h.rf_eq hne).symm⟩
    | slot i => exact ⟨h.params.symm, (h.rx_getElem? hne).symm⟩
    | all => exact absurd rfl hall

/-! ### Writing the same value to a unit of both states -/

theorem AgreesOn.withCrc {s t : State} {u : EngineUnit} (h : AgreesOn s t u) (v : BitVec 16) :
    AgreesOn (s.withCrc v) (t.withCrc v) .crc :=
  ⟨h.params, rfl⟩

theorem AgreesOn.withSer {s t : State} {u : EngineUnit} (h : AgreesOn s t u) (v : Ser) :
    AgreesOn (s.withSer v) (t.withSer v) .ser :=
  ⟨h.params, rfl⟩

theorem AgreesOn.withRf {s t : State} {u : EngineUnit} (h : AgreesOn s t u) (v : Rf) :
    AgreesOn (s.withRf v) (t.withRf v) .rf :=
  ⟨h.params, rfl⟩

theorem AgreesOn.withSlot {s t : State} {i : Nat} (h : AgreesOn s t (.slot i)) (v : RxSlot) :
    AgreesOn (s.withSlot i v) (t.withSlot i v) (.slot i) := by
  obtain ⟨hparams, hrx⟩ := h
  exact ⟨hparams, by simp only [State.withSlot_rx, List.getElem?_set_self', hrx]⟩

/-- A reset state depends on the parameters alone (R260). -/
theorem AgreesOn.applyReset {s t : State} {u : EngineUnit} (h : AgreesOn s t u) :
    AgreesOn s.applyReset t.applyReset .all :=
  ⟨h.params, rfl, rfl, rfl, by simp [h.params]⟩

/-! ### Reading one slot -/

theorem slotOperand_congr {s t : State} (h : s.params = t.params) (a : Byte) : slotOperand s a = slotOperand t a := by
  simp only [slotOperand, h]

theorem AgreesOn.slot_eq {s t : State} {i : Nat} (h : AgreesOn s t (.slot i)) : s.slot i = t.slot i := by
  obtain ⟨_, hrx⟩ := h
  simp only [State.slot, List.getD_eq_getElem?_getD, hrx]

/-! ### The commands -/

/-- Both outcomes go on with one and the same response, and their states agree on the unit `u`. -/
def AnswersAlike (u : EngineUnit) (o o' : Host.Outcome State Fault Refusal) : Prop :=
  ∃ (t t' : State) (r : Response), o = .next (t.emit r) ∧ o' = .next (t'.emit r) ∧ AgreesOn t t' u

theorem respond_answersAlike {u : EngineUnit} {t t' : State} (h : AgreesOn t t' u) (r : Reply) :
    AnswersAlike u (respond r t) (respond r t') :=
  ⟨t, t', packReply r, rfl, rfl, h⟩

theorem raise_answersAlike {u : EngineUnit} {t t' : State} (h : AgreesOn t t' u) (st : Status) :
    AnswersAlike u (raise st t) (raise st t') :=
  respond_answersAlike h _

theorem execDlcCeil_answersAlike {s t : State} (h : AgreesOn s t .none) (n : BitVec 32) :
    AnswersAlike .none (execDlcCeil n s) (execDlcCeil n t) := by
  unfold execDlcCeil
  split
  · exact respond_answersAlike h _
  · exact raise_answersAlike h _

theorem execPadReq_answersAlike {s t : State} (h : AgreesOn s t .none) (m : Byte) (n : BitVec 32) :
    AnswersAlike .none (execPadReq m n s) (execPadReq m n t) := by
  unfold execPadReq
  split_ifs
  · exact raise_answersAlike h _
  · exact respond_answersAlike h _

theorem execCrcAddb_answersAlike {s t : State} (h : AgreesOn s t .crc) (b : Byte) :
    AnswersAlike .crc (execCrcAddb b s) (execCrcAddb b t) := by
  have ⟨_, hcrc⟩ := h
  simp only [execCrcAddb, hcrc]
  exact respond_answersAlike (h.withCrc _) _

theorem execCrcAdd_answersAlike {s t : State} (h : AgreesOn s t .crc) (d : Bytes) :
    AnswersAlike .crc (execCrcAdd d s) (execCrcAdd d t) := by
  have ⟨_, hcrc⟩ := h
  simp only [execCrcAdd, hcrc]
  exact respond_answersAlike (h.withCrc _) _

theorem execCrcRead_answersAlike {s t : State} (h : AgreesOn s t .crc) :
    AnswersAlike .crc (execCrcRead s) (execCrcRead t) := by
  have ⟨_, hcrc⟩ := h
  simp only [execCrcRead, hcrc]
  exact respond_answersAlike h _

theorem execRfStart_answersAlike {s t : State} (h : AgreesOn s t .rf) (c : BitVec 32) :
    AnswersAlike .rf (execRfStart c s) (execRfStart c t) := by
  unfold execRfStart
  split_ifs
  · exact raise_answersAlike h _
  · exact respond_answersAlike (h.withRf _) _

theorem execRfPush_answersAlike {s t : State} (h : AgreesOn s t .rf) (d : Bytes) :
    AnswersAlike .rf (execRfPush d s) (execRfPush d t) := by
  have ⟨hparams, hrf⟩ := h
  simp only [execRfPush, hparams, hrf]
  split_ifs
  · exact raise_answersAlike h _
  · exact raise_answersAlike h _
  · exact respond_answersAlike (h.withRf _) _

theorem execRfEnd_answersAlike {s t : State} (h : AgreesOn s t .rf) : AnswersAlike .rf (execRfEnd s) (execRfEnd t) := by
  have ⟨_, hrf⟩ := h
  simp only [execRfEnd, hrf]
  split_ifs
  · exact raise_answersAlike h _
  · exact respond_answersAlike (h.withRf _) _

theorem execRfNext_answersAlike {s t : State} (h : AgreesOn s t .rf) : AnswersAlike .rf (execRfNext s) (execRfNext t) := by
  have ⟨_, hrf⟩ := h
  simp only [execRfNext, hrf]
  split_ifs
  · exact raise_answersAlike h _
  · exact respond_answersAlike (h.withRf _) _
  · exact raise_answersAlike h _
  · exact respond_answersAlike (h.withRf _) _
  · exact raise_answersAlike h _

theorem execSerStart_answersAlike {s t : State} (h : AgreesOn s t .ser) (m tid : Byte) (lb : Bool) (ident : BitVec 32) :
    AnswersAlike .ser (execSerStart m tid lb ident s) (execSerStart m tid lb ident t) := by
  unfold execSerStart
  split_ifs
  · exact raise_answersAlike h _
  · exact respond_answersAlike (h.withSer _) _

theorem execSerFrag_answersAlike {s t : State} (h : AgreesOn s t .ser) (d : Bytes) :
    AnswersAlike .ser (execSerFrag d s) (execSerFrag d t) := by
  have ⟨hparams, hser⟩ := h
  simp only [execSerFrag, hparams, hser]
  split_ifs
  · exact raise_answersAlike h _
  · exact raise_answersAlike h _
  · exact respond_answersAlike (h.withSer _) _

theorem execSerSeal_answersAlike {s t : State} (h : AgreesOn s t .ser) :
    AnswersAlike .ser (execSerSeal s) (execSerSeal t) := by
  have ⟨_, hser⟩ := h
  simp only [execSerSeal, hser]
  split_ifs
  · exact raise_answersAlike h _
  · exact respond_answersAlike (h.withSer _) _

theorem execSerNext_answersAlike {s t : State} (h : AgreesOn s t .ser) :
    AnswersAlike .ser (execSerNext s) (execSerNext t) := by
  have ⟨_, hser⟩ := h
  simp only [execSerNext, hser]
  split_ifs
  · exact raise_answersAlike h _
  · exact raise_answersAlike h _
  · exact respond_answersAlike (h.withSer _) _

theorem execSerAbort_answersAlike {s t : State} (h : AgreesOn s t .ser) :
    AnswersAlike .ser (execSerAbort s) (execSerAbort t) := by
  have ⟨_, hser⟩ := h
  simp only [execSerAbort, hser]
  exact respond_answersAlike (h.withSer _) _

theorem execRxFeed_answersAlike {s t : State} (slot : Byte) (h : AgreesOn s t (.slot slot.toNat)) (w : Bytes) :
    AnswersAlike (.slot slot.toNat) (execRxFeed slot w s) (execRxFeed slot w t) := by
  simp only [execRxFeed, slotOperand_congr h.params, h.params]
  split
  · exact raise_answersAlike h _
  next i hi =>
    obtain ⟨rfl, _⟩ := slotOperand_eq_some.mp hi
    split
    · exact raise_answersAlike h _
    · rw [h.slot_eq]
      exact respond_answersAlike (h.withSlot _) _

theorem execRxReset_answersAlike {s t : State} (slot : Byte) (h : AgreesOn s t (.slot slot.toNat)) :
    AnswersAlike (.slot slot.toNat) (execRxReset slot s) (execRxReset slot t) := by
  simp only [execRxReset, slotOperand_congr h.params]
  split
  · exact raise_answersAlike h _
  next i hi =>
    obtain ⟨rfl, _⟩ := slotOperand_eq_some.mp hi
    exact respond_answersAlike (h.withSlot _) _

theorem execRxState_answersAlike {s t : State} (slot : Byte) (h : AgreesOn s t (.slot slot.toNat)) :
    AnswersAlike (.slot slot.toNat) (execRxState slot s) (execRxState slot t) := by
  simp only [execRxState, slotOperand_congr h.params]
  split
  · exact raise_answersAlike h _
  next i hi =>
    obtain ⟨rfl, _⟩ := slotOperand_eq_some.mp hi
    rw [h.slot_eq]
    exact respond_answersAlike h _

/-- Every command, RESET among them, reads its own unit alone: states that agree there get the same response, and agree there
afterwards. -/
theorem exec_answersAlike (i : Instr) {s t : State} (h : AgreesOn s t (unitOf i)) :
    AnswersAlike (unitOf i) (exec i s) (exec i t) := by
  cases i with
  | nop => exact respond_answersAlike h _
  | reset => exact respond_answersAlike h.applyReset _
  | dlcCeil n => exact execDlcCeil_answersAlike h n
  | padReq m n => exact execPadReq_answersAlike h m n
  | crcInit => exact respond_answersAlike (h.withCrc _) _
  | crcAddb b => exact execCrcAddb_answersAlike h b
  | crcAdd d => exact execCrcAdd_answersAlike h d
  | crcRead => exact execCrcRead_answersAlike h
  | tailEnc sot eot tgl tid => exact respond_answersAlike h _
  | tailDec t => exact respond_answersAlike h _
  | rfStart c => exact execRfStart_answersAlike h c
  | rfPush d => exact execRfPush_answersAlike h d
  | rfEnd => exact execRfEnd_answersAlike h
  | rfNext => exact execRfNext_answersAlike h
  | serStart m tid lb ident => exact execSerStart_answersAlike h m tid lb ident
  | serFrag d => exact execSerFrag_answersAlike h d
  | serSeal => exact execSerSeal_answersAlike h
  | serNext => exact execSerNext_answersAlike h
  | serAbort => exact execSerAbort_answersAlike h
  | rxFeed slot w => exact execRxFeed_answersAlike slot h w
  | rxReset slot => exact execRxReset_answersAlike slot h
  | rxState slot => exact execRxState_answersAlike slot h

end Sys2Proof.Machine
end

section
/-! PROOFS. Two commands one after the other (spec/20_memory.md R60, R64): commands of different units can be exchanged, readings
repeat their answer, and the reset commands are idempotent. -/

namespace Sys2Proof.Machine

/-- A response that has left tells the state before it and itself. -/
theorem State.emit_inj {s t : State} {r r' : Response} (h : s.emit r = t.emit r') : s = t ∧ r = r' := by
  cases s
  cases t
  simpa [State.emit, and_assoc] using h

/-- RESET alone touches every unit (R64). -/
theorem unitOf_eq_all_iff {i : Instr} : unitOf i = .all ↔ i = .reset := by
  cases i <;> simp [unitOf]

theorem runInstrs_one {i : Instr} {s t : State} (h : exec i s = .next t) : runInstrs [i] s = .next t := by
  simp [runInstrs, h]

theorem runInstrs_two {i j : Instr} {s t v : State} (hi : exec i s = .next t) (hj : exec j t = .next v) :
    runInstrs [i, j] s = .next v := by
  simp [runInstrs, hi, hj]

/-! ### Exchange -/

/-- What a command answers in one state it answers in every state that agrees on its unit; there too it writes at most its own
unit, and leaves the same registers in it. -/
theorem exec_next_of_agreesOn {i : Instr} {s s' t : State} {r : Response} (hi : unitOf i ≠ .all)
    (h : AgreesOn s s' (unitOf i)) (hexec : exec i s = .next (t.emit r)) :
    ∃ t', exec i s' = .next (t'.emit r) ∧ WritesOnly s' (writtenUnit i) t' ∧ AgreesOn t t' (unitOf i) := by
  obtain ⟨u, u', ru, hu, hu', hagree⟩ := exec_answersAlike i h
  obtain ⟨v, rv, hwrites, hv⟩ := exec_answersWriting i s' hi
  obtain ⟨rfl, rfl⟩ := State.emit_inj (Host.Outcome.next.inj (hexec.symm.trans hu))
  obtain ⟨rfl, rfl⟩ := State.emit_inj (Host.Outcome.next.inj (hu'.symm.trans hv))
  exact ⟨u', hu', hwrites, hagree⟩

/-- Settles O18: each command meets its own unit as it was and leaves in it what it leaves alone; a unit of neither command is
never written. -/
theorem independentCommandsCommute : Obligations.IndependentCommandsCommute := by
  intro i j s hi hj hij
  have hji : unitOf j = .none ∨ unitOf j ≠ unitOf i := by
    obtain hnone | hne := hij
    · rw [hnone]
      exact em _
    · exact .inr hne.symm
  obtain ⟨a, ri, hswa, ha⟩ := exec_answersWriting i s hi
  obtain ⟨b, rj, hswb, hb⟩ := exec_answersWriting j s hj
  have hsa {u : EngineUnit} (h : unitOf i = .none ∨ unitOf i ≠ u) (hu : u ≠ .all) : AgreesOn s (a.emit ri) u :=
    (hswa.own_unit.agreesOn h hu).trans (.emit_self a ri u)
  have hsb {u : EngineUnit} (h : unitOf j = .none ∨ unitOf j ≠ u) (hu : u ≠ .all) : AgreesOn s (b.emit rj) u :=
    (hswb.own_unit.agreesOn h hu).trans (.emit_self b rj u)
  obtain ⟨a', ha', hawa', hba'⟩ := exec_next_of_agreesOn hj (hsa hij hj) hb
  obtain ⟨b', hb', hbwb', hab'⟩ := exec_next_of_agreesOn hi (hsb hji hi) ha
  have hregs : SameRegisters a' b' := by
    refine .of_agreesOn fun u hu => ?_
    by_cases hui : unitOf i = u
    · subst hui
      exact (hawa'.own_unit.agreesOn hji hi).symm.trans ((AgreesOn.emit_self a ri _).symm.trans hab')
    · by_cases huj : unitOf j = u
      · subst huj
        exact hba'.symm.trans ((AgreesOn.emit_self b rj _).trans (hbwb'.own_unit.agreesOn hij hj))
      · have hsa' : AgreesOn s a' u := (hsa (.inr hui) hu).trans (hawa'.own_unit.agreesOn (.inr huj) hu)
        have hsb' : AgreesOn s b' u := (hsb (.inr huj) hu).trans (hbwb'.own_unit.agreesOn (.inr hui) hu)
        exact hsa'.symm.trans hsb'
  exact ⟨a'.emit rj, b'.emit ri, ri, rj, runInstrs_two ha ha', runInstrs_two hb hb', hregs,
    by simp [hawa'.resps, hswa.resps], by simp [hbwb'.resps, hswb.resps]⟩

/-! ### Readings and resets -/

/-- A command that writes nothing answers the same response again: the first response is no register. -/
theorem exec_reading {i : Instr} (s : State) (h : writtenUnit i = .none) :
    ∃ r, exec i s = .next (s.emit r) ∧ exec i (s.emit r) = .next ((s.emit r).emit r) := by
  have hi : unitOf i ≠ .all := by
    intro hall
    obtain rfl := unitOf_eq_all_iff.mp hall
    exact absurd h nofun
  obtain ⟨t, r, hwrites, hexec⟩ := exec_answersWriting i s hi
  rw [h] at hwrites
  obtain rfl := hwrites.eq_of_none
  obtain ⟨t', hexec', hwrites', _⟩ := exec_next_of_agreesOn hi (.emit_self t r _) hexec
  rw [h] at hwrites'
  obtain rfl := hwrites'.eq_of_none
  exact ⟨r, hexec, hexec'⟩

/-- RX.RESET: the slot it has reset it resets to the same again, and one that is refused writes nothing (R210). -/
theorem execRxReset_idempotent (slot : Byte) (s : State) :
    ∃ a b, execRxReset slot s = .next a ∧ execRxReset slot a = .next b ∧ SameRegisters a b := by
  cases hslot : slotOperand s slot with
  | none =>
    have hraise (t : State) (ht : t.params = s.params) : execRxReset slot t = raise .badOperand t := by
      simp [execRxReset, slotOperand_congr ht, hslot]
    exact ⟨_, _, hraise s rfl, hraise _ rfl, rfl, rfl, rfl, rfl, rfl⟩
  | some i =>
    have hreset (t : State) (ht : t.params = s.params) :
        execRxReset slot t = respond { st := .ok } (t.withSlot i RxSlot.reset) := by
      simp [execRxReset, slotOperand_congr ht, hslot]
    exact ⟨_, _, hreset s rfl, hreset _ rfl, rfl, rfl, rfl, rfl, by simp⟩

/-- RESET, CRC.INIT, SER.ABORT and RX.RESET leave the same registers when issued again (R60). -/
theorem exec_idempotent {i : Instr} (s : State)
    (h : mnemonic i = .reset ∨ mnemonic i = .crcInit ∨ mnemonic i = .serAbort ∨ mnemonic i = .rxReset) :
    ∃ a b, exec i s = .next a ∧ exec i a = .next b ∧ SameRegisters a b := by
  cases i with
  | reset => exact ⟨_, _, rfl, rfl, rfl, rfl, rfl, rfl, rfl⟩
  | crcInit => exact ⟨_, _, rfl, rfl, rfl, rfl, rfl, rfl, rfl⟩
  | serAbort => exact ⟨_, _, rfl, rfl, rfl, rfl, rfl, rfl, rfl⟩
  | rxReset slot => exact execRxReset_idempotent slot s
  | _ => simp [mnemonic] at h

/-- Settles O20: a reading leaves the state to read it again, and a reset writes what it has written. -/
theorem readingsRepeatAndResetsAreIdempotent : Obligations.ReadingsRepeatAndResetsAreIdempotent := by
  refine ⟨fun i s h => ?_, fun i s h => ?_⟩
  · obtain ⟨r, hfirst, hsecond⟩ := exec_reading s ((writtenUnit_eq_none_iff i).mpr h)
    have htwice : (s.emit r).emit r = { s with resps := s.resps ++ [r, r] } := by simp [State.emit]
    exact ⟨r, htwice ▸ runInstrs_two hfirst hsecond⟩
  · obtain ⟨a, b, hfirst, hsecond, hregs⟩ := exec_idempotent s h
    exact ⟨a, b, runInstrs_one hfirst, runInstrs_two hfirst hsecond, hregs⟩

end Sys2Proof.Machine
end

section
/-! PROOFS. The step and the command port (spec/20_memory.md R63): each step runs the oldest waiting command, which answers once
and does not look at the port; so the commands that wait run in order. -/

namespace Sys2Proof.Machine

/-- What a step does with a command waiting: it runs the decoded command, or answers that there is none (R76). -/
theorem step_of_waiting {s : State} {c : Command} {rest : List Command} (h : s.cmds = c :: rest) :
    (∃ i, decode c = .ok i ∧ step s = exec i { s with cmds := rest })
    ∨ ∃ opc, decode c = .error (.illegalOpcode opc) ∧ step s = raise .illegalCommand { s with cmds := rest } := by
  obtain ⟨hnone, _⟩ | ⟨c', rest', i, hcmds, hdecode, hstep⟩ | ⟨c', rest', opc, hcmds, hdecode, hstep⟩ := step_cases s
  · simp [h] at hnone
  · obtain ⟨rfl, rfl⟩ := List.cons.inj (h.symm.trans hcmds)
    exact .inl ⟨i, hdecode, hstep⟩
  · obtain ⟨rfl, rfl⟩ := List.cons.inj (h.symm.trans hcmds)
    exact .inr ⟨opc, hdecode, hstep⟩

/-- Settles O10: a command that decodes is run, and to no other instruction. -/
theorem stepRunsTheDecodedCommand : Obligations.StepRunsTheDecodedCommand := by
  intro s c rest i hcmds hdecode
  obtain ⟨i', hdecode', hstep⟩ | ⟨opc, hdecode', _⟩ := step_of_waiting hcmds
  · obtain rfl := Except.ok.inj (hdecode.symm.trans hdecode')
    exact hstep
  · exact absurd (hdecode.symm.trans hdecode') nofun

/-- Every command, RESET among them, goes on, leaves the commands that wait, and answers once after the earlier responses. -/
theorem exec_answers (i : Instr) (s : State) :
    ∃ t r, exec i s = .next t ∧ t.cmds = s.cmds ∧ t.resps = s.resps ++ [r] := by
  by_cases hall : unitOf i = .all
  · obtain rfl := unitOf_eq_all_iff.mp hall
    exact ⟨_, _, rfl, rfl, rfl⟩
  · obtain ⟨t, r, hwrites, hexec⟩ := exec_answersWriting i s hall
    exact ⟨t.emit r, r, hexec, hwrites.cmds, by simp [hwrites.resps]⟩

/-- Settles O12: a legal command answers once, an illegal one is answered once, and either was taken off the port. -/
theorem everyCommandGetsOneResponse : Obligations.EveryCommandGetsOneResponse := by
  intro s c rest hcmds
  obtain ⟨i, _, hstep⟩ | ⟨opc, _, hstep⟩ := step_of_waiting hcmds
  · obtain ⟨t, r, hexec, ht⟩ := exec_answers i { s with cmds := rest }
    exact ⟨t, r, hstep.trans hexec, ht⟩
  · exact ⟨_, _, hstep.trans (raise_next.mpr rfl), rfl, rfl⟩

/-- The state is its registers and its ports. -/
theorem SameRegisters.eq_of_ports {s t : State} (h : SameRegisters s t) (hcmds : s.cmds = t.cmds)
    (hresps : s.resps = t.resps) : s = t := by
  cases s
  cases t
  obtain ⟨rfl, rfl, rfl, rfl, rfl⟩ := h
  cases hcmds
  cases hresps
  rfl

/-- A command does not look at the port: with other commands waiting it answers the same and leaves the same registers. -/
theorem exec_cmds {i : Instr} {s t : State} (cs : List Command) (h : exec i s = .next t) :
    exec i { s with cmds := cs } = .next { t with cmds := cs } := by
  by_cases hall : unitOf i = .all
  · obtain rfl := unitOf_eq_all_iff.mp hall
    cases h
    rfl
  · obtain ⟨u, r, hwrites, hexec⟩ := exec_answersWriting i s hall
    cases h.symm.trans hexec
    have hport (v : EngineUnit) : AgreesOn s { s with cmds := cs } v := SameRegisters.agreesOn ⟨rfl, rfl, rfl, rfl, rfl⟩ v
    obtain ⟨u', hexec', hwrites', hown⟩ := exec_next_of_agreesOn hall (hport _) hexec
    have hregs : SameRegisters u' u := by
      refine .of_agreesOn fun v hv => ?_
      by_cases hiv : unitOf i = v
      · exact hiv ▸ hown.symm
      · exact (hwrites'.own_unit.agreesOn (.inr hiv) hv).symm.trans
          ((hport v).symm.trans (hwrites.own_unit.agreesOn (.inr hiv) hv))
    have hu' : u' = { u with cmds := cs } :=
      SameRegisters.eq_of_ports hregs hwrites'.cmds (hwrites'.resps.trans hwrites.resps.symm)
    rw [hexec', hu']
    rfl

/-- Settles O13, by induction on the instructions: a step runs the first, and leaves the others' encodings at the port. -/
theorem queuedCommandsRunInOrder : Obligations.QueuedCommandsRunInOrder := by
  intro is
  induction is with
  | nil =>
    rintro rest s rfl
    rfl
  | cons i is ih =>
    intro rest s hcmds
    obtain ⟨t, r, hexec, ht, _⟩ := exec_answers i { s with cmds := is.map encode ++ rest }
    have hstep : step s = .next t := (stepRunsTheDecodedCommand s _ _ i hcmds (decode_encode i)).trans hexec
    have hrun : exec i { s with cmds := rest } = .next { t with cmds := rest } :=
      exec_cmds (s := { s with cmds := is.map encode ++ rest }) rest hexec
    simp only [List.length_cons, runSteps, hstep, runInstrs, hrun]
    exact ih rest t ht

end Sys2Proof.Machine
end

section
/-! PROOFS. The fields of the two port words (spec/30_encoding.md R71, R72), and encoding after decoding: the command of the
operands read from a command is that command with its reserved fields cleared and its stray block dropped (R74 to R76). -/

namespace Sys2Proof

/-! ### A word as its five fields -/

/-- Words with the same five fields are the same word (R71). -/
theorem word_ext {x y : Word} (hopc : fieldOpc x = fieldOpc y) (ha : fieldA x = fieldA y) (hb : fieldB x = fieldB y)
    (hf : fieldF x = fieldF y) (hw : fieldW x = fieldW y) : x = y := by
  have bit {n : Nat} {u v : BitVec n} (h : u = v) (j : Nat) : u.getLsbD j = v.getLsbD j := by rw [h]
  refine BitVec.eq_of_getLsbD_eq fun k hk => ?_
  have := bit hopc k
  have := bit ha (k - 8)
  have := bit hb (k - 16)
  have := bit hf (k - 24)
  have := bit hw (k - 32)
  grind [fieldOpc, fieldA, fieldB, fieldF, fieldW]

/-- The fields lie side by side in the word, `OPC` lowest (R71). -/
theorem packWord_eq_append (opc a b f : Byte) (w : BitVec 32) : packWord opc a b f w = w ++ f ++ b ++ a ++ opc := by
  refine BitVec.eq_of_getLsbD_eq fun k hk => ?_
  rw [getLsbD_packWord _ _ _ _ _ hk]
  grind

/-- The value of two words side by side. -/
theorem toNat_append_eq_add {m n : Nat} (x : BitVec m) (y : BitVec n) :
    (x ++ y).toNat = x.toNat * 2 ^ n + y.toNat := by
  rw [BitVec.toNat_append, ← Nat.shiftLeft_add_eq_or_of_lt y.isLt, Nat.shiftLeft_eq]

/-- The word's value is the sum of its fields, each at its place (R71). -/
theorem toNat_packWord (opc a b f : Byte) (w : BitVec 32) :
    (packWord opc a b f w).toNat
      = opc.toNat + a.toNat * 2 ^ 8 + b.toNat * 2 ^ 16 + f.toNat * 2 ^ 24 + w.toNat * 2 ^ 32 := by
  simp only [packWord_eq_append, toNat_append_eq_add]
  ring

theorem flagF_eq_getLsbD (x : Word) {i : Nat} (hi : i < 8) : flagF x i = x.getLsbD (24 + i) := by
  simp [flagF, fieldF, hi, -BitVec.getLsbD_eq_getElem]

/-- Settles O6: each part is the rule about `packWord` or about one field of it. -/
theorem commandWordLayout : Obligations.CommandWordLayout :=
  ⟨fun _ _ _ _ _ => ⟨toNat_packWord _ _ _ _ _, fieldOpc_packWord _ _ _ _ _, fieldA_packWord _ _ _ _ _,
    fieldB_packWord _ _ _ _ _, fieldF_packWord _ _ _ _ _, fieldW_packWord _ _ _ _ _⟩, fun x _ hi => flagF_eq_getLsbD x hi⟩

/-- Settles O7: the response word is laid out as the command word, so its fields are read as that word's are. -/
theorem responseWordLayout : Obligations.ResponseWordLayout := fun _ _ _ _ _ _ =>
  ⟨toNat_packWord _ _ _ _ _, fieldOpc_packWord _ _ _ _ _, fieldA_packWord _ _ _ _ _, fieldB_packWord _ _ _ _ _,
    fieldF_packWord _ _ _ _ _, fieldW_packWord _ _ _ _ _⟩

/-! ### Clearing the reserved fields -/

theorem fieldOpc_and (x y : Word) : fieldOpc (x &&& y) = fieldOpc x &&& fieldOpc y := BitVec.extractLsb'_and
theorem fieldA_and (x y : Word) : fieldA (x &&& y) = fieldA x &&& fieldA y := BitVec.extractLsb'_and
theorem fieldB_and (x y : Word) : fieldB (x &&& y) = fieldB x &&& fieldB y := BitVec.extractLsb'_and
theorem fieldF_and (x y : Word) : fieldF (x &&& y) = fieldF x &&& fieldF y := BitVec.extractLsb'_and
theorem fieldW_and (x y : Word) : fieldW (x &&& y) = fieldW x &&& fieldW y := BitVec.extractLsb'_and

/-- Every command uses its whole opcode. -/
theorem fieldOpc_and_usedBits (x : Word) (mn : Mnemonic) : fieldOpc (x &&& usedBits mn) = fieldOpc x := by
  have hopc : fieldOpc (usedBits mn) = BitVec.allOnes 8 := by cases mn <;> decide
  rw [fieldOpc_and, hopc, BitVec.and_allOnes]

/-- The command as software should write it: its reserved fields 0 and no stray block (R74). -/
def Command.cleaned (mn : Mnemonic) (c : Command) : Command :=
  ⟨c.word &&& usedBits mn, if takesBlock mn then c.block else []⟩

/-- A mask keeps all of a word exactly when no bit of the word lies outside the mask. -/
theorem and_eq_self_iff_and_not_eq_zero (x u : Word) : x &&& u = x ↔ x &&& ~~~ u = 0 := by
  constructor
  · intro h
    rw [← h, BitVec.and_assoc]
    simp
  · intro h
    calc x &&& u = (x &&& u) ||| (x &&& ~~~ u) := by rw [h]; simp
      _ = x &&& BitVec.allOnes 64 := by rw [← BitVec.and_or_distrib_left]; simp
      _ = x := BitVec.and_allOnes

/-- A command is in that form exactly when it has no reserved field set and no stray block. -/
theorem Command.cleaned_eq_self_iff (mn : Mnemonic) (c : Command) :
    c.cleaned mn = c ↔ reservedZero mn c = true ∧ blockAllowed mn c = true := by
  obtain ⟨word, block⟩ := c
  have hword := and_eq_self_iff_and_not_eq_zero word (usedBits mn)
  cases hblock : takesBlock mn <;>
    simp [Command.cleaned, reservedZero, blockAllowed, hblock, hword, eq_comm (a := ([] : Bytes))]

/-- Commands that agree in the fields in use are the same once cleaned. -/
theorem agreeOnUsed_iff {mn : Mnemonic} {c c' : Command} : agreeOnUsed mn c c' ↔ c.cleaned mn = c'.cleaned mn := by
  cases hblock : takesBlock mn <;> simp [agreeOnUsed, Command.cleaned, hblock]

/-- The well-formed commands are the cleaned ones of an assigned opcode. -/
theorem Command.wf_iff (c : Command) :
    c.wf = true ↔ ∃ mn, mnemonicOf (fieldOpc c.word) = some mn ∧ c.cleaned mn = c := by
  cases hmn : mnemonicOf (fieldOpc c.word) <;> simp [Command.wf, illegalOpcode_iff, hmn, Command.cleaned_eq_self_iff]

/-! ### Encoding what was decoded -/

/-- A flag written back to its place is that bit of `F`. -/
theorem flagBit_flagF (x : Word) {i : Nat} (hi : i < 8) : flagBit (flagF x i) i = fieldF x &&& flagBit true i := by
  refine BitVec.eq_of_getLsbD_eq fun j _ => ?_
  rw [BitVec.getLsbD_and, getLsbD_flagBit _ _ _ hi, getLsbD_flagBit _ _ _ hi]
  by_cases hji : j = i <;> simp [hji, flagF]

/-- The command of the operands read from `c` holds `c`'s value in each field its opcode uses, and 0 in the others. -/
theorem encode_readOperands_word (mn : Mnemonic) (c : Command) :
    (encode (readOperands c mn)).word = packWord (opcodeOf mn) (fieldA c.word &&& fieldA (usedBits mn))
      (fieldB c.word &&& fieldB (usedBits mn)) (fieldF c.word &&& fieldF (usedBits mn))
      (fieldW c.word &&& fieldW (usedBits mn)) := by
  have hbyte (x : Byte) : x &&& 255#8 = x := BitVec.and_allOnes
  have hfull (x : BitVec 32) : x &&& 4294967295#32 = x := BitVec.and_allOnes
  cases mn <;> simp only [readOperands, encode, mnemonic, flagBit_flagF, Nat.reduceLT, ← BitVec.and_or_distrib_left] <;>
    simp [usedBits, fieldA, fieldB, fieldF, fieldW, flagBit, hbyte, hfull]

theorem encode_readOperands_block (mn : Mnemonic) (c : Command) :
    (encode (readOperands c mn)).block = if takesBlock mn then c.block else [] := by
  cases mn <;> rfl

/-- Encoding the operands read from a command gives that command, cleaned. -/
theorem encode_readOperands {mn : Mnemonic} {c : Command} (h : mnemonicOf (fieldOpc c.word) = some mn) :
    encode (readOperands c mn) = c.cleaned mn := by
  have hword : (encode (readOperands c mn)).word = c.word &&& usedBits mn := by
    rw [encode_readOperands_word, opcodeOf_of_mnemonicOf _ _ h]
    apply word_ext <;> simp [fieldOpc_and_usedBits, fieldA_and, fieldB_and, fieldF_and, fieldW_and]
  calc encode (readOperands c mn)
      = ⟨(encode (readOperands c mn)).word, (encode (readOperands c mn)).block⟩ := rfl
    _ = c.cleaned mn := by rw [hword, encode_readOperands_block, Command.cleaned]

theorem mnemonicOf_encode (i : Instr) : mnemonicOf (fieldOpc (encode i).word) = some (mnemonic i) := by
  rw [fieldOpc_encode, mnemonicOf_opcodeOf]

/-- Different instructions have different commands: each is what its command decodes to. -/
theorem encode_injective : Function.Injective encode := by
  intro i j h
  exact Except.ok.inj ((decode_encode i).symm.trans ((congrArg decode h).trans (decode_encode j)))

/-- Settles O1: an encoding reads back as its instruction, so it is its own cleaned form. -/
theorem decodeEncodeAgree : Obligations.DecodeEncodeAgree := by
  intro i
  have hclean : (encode i).cleaned (mnemonic i) = encode i := by
    rw [← encode_readOperands (mnemonicOf_encode i), readOperands_encode]
  exact ⟨(Command.wf_iff _).mpr ⟨mnemonic i, mnemonicOf_encode i, hclean⟩, decode_encode i⟩

/-- Settles O2: the command of what was read is the cleaned one, and a well-formed command is that already. -/
theorem encodeDecodeAgree : Obligations.EncodeDecodeAgree := by
  intro c hwf
  obtain ⟨mn, hmn, hclean⟩ := (Command.wf_iff c).mp hwf
  exact ⟨readOperands c mn, decode_of_mnemonicOf hmn, (encode_readOperands hmn).trans hclean⟩

/-- Commands that agree in the fields in use select the same row of the opcode map. -/
theorem fieldOpc_eq_of_agreeOnUsed {mn : Mnemonic} {c c' : Command} (h : agreeOnUsed mn c c') :
    fieldOpc c'.word = fieldOpc c.word := by
  obtain ⟨hword, _⟩ := h
  rw [← fieldOpc_and_usedBits c'.word mn, ← hword, fieldOpc_and_usedBits]

/-- A step from a port with `c` first depends on `c` only through what it decodes to. -/
theorem step_sendFirst_congr {c c' : Command} (h : decode c = decode c') (s : Machine.State) :
    Machine.step (s.sendFirst c) = Machine.step (s.sendFirst c') := by
  simp [Machine.step, Machine.takeCommand, Machine.State.sendFirst, h]

/-- Settles O3: both commands' instructions have the same cleaned command, so they are one instruction. -/
theorem reservedFieldsAreIgnored : Obligations.ReservedFieldsAreIgnored := by
  intro mn c c' hmn hagree
  have hmn' : mnemonicOf (fieldOpc c'.word) = some mn := by rwa [fieldOpc_eq_of_agreeOnUsed hagree]
  have hread : readOperands c mn = readOperands c' mn :=
    encode_injective ((encode_readOperands hmn).trans ((agreeOnUsed_iff.mp hagree).trans (encode_readOperands hmn').symm))
  have hdecode : decode c = decode c' := by rw [decode_of_mnemonicOf hmn, decode_of_mnemonicOf hmn', hread]
  exact ⟨hdecode, step_sendFirst_congr hdecode⟩

/-! ### Unassigned opcodes -/

/-- `OPC` is the word's value modulo 256. -/
theorem toNat_fieldOpc (x : Word) : (fieldOpc x).toNat = x.toNat % 256 := by
  simp [fieldOpc, BitVec.extractLsb'_toNat]

/-- The opcodes without a row in the map are those of R76's ranges. -/
theorem mnemonicOf_eq_none_iff (opc : Byte) : mnemonicOf opc = none ↔
    (0x02 ≤ opc.toNat ∧ opc.toNat ≤ 0x0F) ∨ (0x12 ≤ opc.toNat ∧ opc.toNat ≤ 0x1F)
      ∨ (0x24 ≤ opc.toNat ∧ opc.toNat ≤ 0x2F) ∨ (0x32 ≤ opc.toNat ∧ opc.toNat ≤ 0x3F)
      ∨ (0x44 ≤ opc.toNat ∧ opc.toNat ≤ 0x4F) ∨ (0x55 ≤ opc.toNat ∧ opc.toNat ≤ 0x5F)
      ∨ (0x63 ≤ opc.toNat ∧ opc.toNat ≤ 0xFF) := by
  rw [← Option.isNone_iff_eq_none, ← illegalOpcode_iff]
  simp [illegalOpcode, or_assoc]

theorem decode_of_mnemonicOf_eq_none {c : Command} (h : mnemonicOf (fieldOpc c.word) = none) :
    decode c = .error (.illegalOpcode (fieldOpc c.word)) := by
  simp [decode, h]

/-- Settles O4: R76's ranges are the values without a row in the map, and a command without one is only answered. -/
theorem illegalOpcodesAreAnswered : Obligations.IllegalOpcodesAreAnswered := by
  rintro s c rest n hcmds rfl
  rw [← toNat_fieldOpc]
  split
  next hrange =>
    have hdecode := decode_of_mnemonicOf_eq_none ((mnemonicOf_eq_none_iff _).mpr hrange)
    obtain ⟨i, hdecode', _⟩ | ⟨_, _, hstep⟩ := Machine.step_of_waiting hcmds
    · exact absurd (hdecode.symm.trans hdecode') nofun
    · rw [hstep, Machine.raise_next, Machine.packReply_status]
      rfl
  next hrange =>
    obtain ⟨mn, hmn⟩ := Option.ne_none_iff_exists'.mp (mt (mnemonicOf_eq_none_iff _).mp hrange)
    exact ⟨_, decode_of_mnemonicOf hmn⟩

/-! ### R80's examples -/

/-- A command that is an instruction's encoding decodes to it. -/
theorem decode_and_encode_of_encode_eq {i : Instr} {c : Command} (h : encode i = c) : decode c = .ok i ∧ encode i = c :=
  ⟨h ▸ decode_encode i, h⟩

/-- Settles O5: each word is its command's encoding by R71. -/
theorem exampleWordsDecode : Obligations.ExampleWordsDecode := by
  have hfeed (w : Bytes) : encode (.rxFeed 3 w) = ⟨0x0000000000000360, w⟩ :=
    congrArg (Command.mk · w) (show packWord 0x60 3 0 0 0 = 0x0000000000000360 by decide)
  exact ⟨decode_and_encode_of_encode_eq (by decide), decode_and_encode_of_encode_eq (by decide),
    decode_and_encode_of_encode_eq (by decide), decode_and_encode_of_encode_eq (by decide),
    decode_and_encode_of_encode_eq (by decide), decode_and_encode_of_encode_eq (by decide),
    fun w => decode_and_encode_of_encode_eq (hfeed w)⟩

end Sys2Proof
end

section
/-! PROOFS. The assembler reads back the line that writes out an instruction's operands (spec/30_encoding.md R78). -/

namespace Sys2Proof.Machine

/-- Numbers that fit their fields, one for each field, are filled in as they stand. -/
theorem fillOperands_of_fits {ws xs : List Nat} (h : List.Forall₂ (fun w x => x < 2 ^ w) ws xs) :
    fillOperands ws xs = some xs := by
  induction h with
  | nil => rfl
  | cons hfits _ ih => simp [fillOperands, hfits, ih]

/-- An instruction's operands fit the fields of the syntax column: their types have those widths. -/
theorem disassemble_fits (i : Instr) :
    List.Forall₂ (fun w x => x < 2 ^ w) (operandWidths (disassemble i).mn) (disassemble i).ops := by
  have hflag (x : Bool) : x.toNat < 2 := x.toNat_lt
  have hbyte (x : Byte) : x.toNat < 256 := x.isLt
  have hword (x : BitVec 32) : x.toNat < 4294967296 := x.isLt
  cases i <;> simp [disassemble, operandWidths, hflag, hbyte, hword]

/-- The numbers and the block written out are those the instruction is built from. -/
theorem buildInstr_disassemble (i : Instr) :
    buildInstr (disassemble i).mn (disassemble i).ops (disassemble i).block = some i := by
  cases i <;> simp [disassemble, buildInstr]

/-- Settles O8: the operands are filled in as written, and build the instruction. -/
theorem assemblerReadsBack : Obligations.AssemblerReadsBack := by
  intro i
  rw [assemble, fillOperands_of_fits (disassemble_fits i)]
  exact buildInstr_disassemble i

end Sys2Proof.Machine
end

section
/-! PROOFS. The statuses (spec/30_encoding.md R77, spec/60_exceptions.md R231): only OK and DELIVERED come with results. -/

namespace Sys2Proof.Machine

/-- Results come only with OK and DELIVERED: any other reply is its status alone. -/
def Reply.Bare (q : Reply) : Prop := q.st ≠ .ok → q.st ≠ .delivered → q = { st := q.st }

theorem Reply.bare_of_ok {q : Reply} (h : q.st = .ok) : q.Bare := fun hok => absurd h hok

theorem Reply.bare_of_delivered {q : Reply} (h : q.st = .delivered) : q.Bare := fun _ hdel => absurd h hdel

theorem Reply.bare_status (st : Status) : Reply.Bare { st := st } := fun _ _ => rfl

/-- Every response carries the code of a status. -/
theorem packReply_st (q : Reply) : (packReply q).st = statusCode q.st := by
  obtain ⟨_, hst, _⟩ := responseWordLayout (statusCode q.st) q.ra q.rb q.rf q.rw q.d
  exact hst

/-- The fourteen codes are R77's. -/
theorem statusCode_mem (st : Status) : statusCode st ∈
    [0x00#8, 0x01#8, 0x02#8, 0x03#8, 0x04#8, 0x05#8, 0x10#8, 0x11#8, 0x12#8, 0x13#8, 0x14#8, 0x20#8, 0x21#8, 0x22#8] := by
  cases st <;> decide

/-- A bare reply's response, unless it is OK or DELIVERED, is its code with every other field 0 and an empty block. -/
theorem packReply_of_bare {q : Reply} (h : q.Bare) (hok : (packReply q).st ≠ 0x00) (hdel : (packReply q).st ≠ 0x01) :
    packReply q = ⟨(packReply q).st.setWidth 64, []⟩ := by
  rw [packReply_st] at hok hdel ⊢
  have hq : q = { st := q.st } := h (fun hst => hok (by rw [hst]; rfl)) fun hst => hdel (by rw [hst]; rfl)
  rw [hq, packReply_status]

/-! ### The commands -/

/-- The outcome `o` is a bare reply. -/
def AnswersBare (o : Host.Outcome State Fault Refusal) : Prop :=
  ∃ (q : Reply) (t : State), q.Bare ∧ o = respond q t

theorem respond_ok_answersBare {q : Reply} (h : q.st = .ok) (t : State) : AnswersBare (respond q t) :=
  ⟨q, t, Reply.bare_of_ok h, rfl⟩

theorem raise_answersBare (st : Status) (t : State) : AnswersBare (raise st t) :=
  ⟨_, t, Reply.bare_status st, rfl⟩

theorem feedComplete_bare (r : RxSlot) (b : Bytes) (t : Tail) : (feedComplete r b t).2.Bare := by
  unfold feedComplete
  split
  · exact Reply.bare_of_delivered rfl
  · exact Reply.bare_status _

/-- A frame that is neither accepted nor delivered answers its status alone. -/
theorem feedSlot_bare (cap : Capacity) (r : RxSlot) (d : Bytes) (t : Tail) : (feedSlot cap r d t).2.Bare := by
  obtain ⟨_, _, h⟩ | ⟨_, _, _, h⟩ | ⟨_, _, _, h⟩ | ⟨_, _, h⟩ | ⟨_, _, _, h⟩ | ⟨_, _, _, _, h⟩ | ⟨_, _, _, _, _, h⟩
    | ⟨_, _, _, _, _, _, h⟩ | ⟨_, _, _, _, _, _, h⟩ := feedSlot_cases cap r d t <;> rw [h]
  · exact Reply.bare_of_delivered rfl
  · exact Reply.bare_status _
  · exact Reply.bare_of_ok rfl
  · exact Reply.bare_status _
  · exact Reply.bare_status _
  · exact Reply.bare_status _
  · exact Reply.bare_status _
  · exact Reply.bare_of_ok rfl
  · exact feedComplete_bare _ _ _

theorem execRxFeed_answersBare (slot : Byte) (w : Bytes) (s : State) : AnswersBare (execRxFeed slot w s) := by
  unfold execRxFeed
  split
  · exact raise_answersBare _ _
  · split
    · exact raise_answersBare _ _
    · exact ⟨_, _, feedSlot_bare _ _ _ _, rfl⟩

/-- Every command answers a bare reply: RX.FEED that of its slot, and any other command an OK one or a raised status. -/
theorem exec_answersBare (i : Instr) (s : State) : AnswersBare (exec i s) := by
  cases i with
  | nop | reset | crcInit | crcAddb | crcAdd | crcRead | tailEnc | tailDec | serAbort =>
    exact respond_ok_answersBare rfl _
  | dlcCeil n =>
    simp only [exec, execDlcCeil]
    split
    · exact respond_ok_answersBare rfl _
    · exact raise_answersBare _ _
  | padReq m n =>
    simp only [exec, execPadReq]
    split
    · exact raise_answersBare _ _
    · exact respond_ok_answersBare rfl _
  | rfNext =>
    simp only [exec, execRfNext]
    split_ifs
    · exact raise_answersBare _ _
    · exact respond_ok_answersBare rfl _
    · exact raise_answersBare _ _
    · exact respond_ok_answersBare rfl _
    · exact raise_answersBare _ _
  | rfStart | rfEnd | serStart | serSeal =>
    simp only [exec, execRfStart, execRfEnd, execSerStart, execSerSeal]
    split
    · exact raise_answersBare _ _
    · exact respond_ok_answersBare rfl _
  | rfPush | serFrag | serNext =>
    simp only [exec, execRfPush, execSerFrag, execSerNext]
    split_ifs
    · exact raise_answersBare _ _
    · exact raise_answersBare _ _
    · exact respond_ok_answersBare rfl _
  | rxFeed slot w => exact execRxFeed_answersBare slot w s
  | rxReset | rxState =>
    simp only [exec, execRxReset, execRxState]
    split
    · exact raise_answersBare _ _
    · exact respond_ok_answersBare rfl _

/-- Settles O14: the response of the step is that of a bare reply, whether the command decodes or not. -/
theorem statusesAreTheFourteen : Obligations.StatusesAreTheFourteen := by
  intro s t c rest r hcmds hstep hresps
  have hbare : AnswersBare (step s) := by
    obtain ⟨i, _, h⟩ | ⟨_, _, h⟩ := step_of_waiting hcmds
    · exact h ▸ exec_answersBare i _
    · exact h ▸ raise_answersBare _ _
  obtain ⟨q, u, hq, hrespond⟩ := hbare
  obtain rfl := respond_next.mp (hrespond.symm.trans hstep)
  obtain ⟨_, hr⟩ := List.append_inj' hresps rfl
  obtain rfl := List.singleton_inj.mp hr
  exact ⟨packReply_st q ▸ statusCode_mem q.st, packReply_of_bare hq⟩

end Sys2Proof.Machine
end

section
/-! PROOFS. A whole transfer through the serializer's commands (spec/45_serializer.md R172 to R178): SER.START, the fragments,
SER.SEAL, and SER.NEXT until EXHAUSTED, each run from the state the one before left. -/

namespace Sys2Proof.Machine

/-! ### Runs -/

/-- A run that reaches `t` goes on from `t`. -/
theorem runInstrs_append {is : List Instr} {s t : State} (h : runInstrs is s = .next t) (js : List Instr) :
    runInstrs (is ++ js) s = runInstrs js t := by
  induction is generalizing s with
  | nil => cases h; rfl
  | cons i is ih =>
    obtain ⟨u, _, hexec, _⟩ := exec_answers i s
    simp only [List.cons_append, runInstrs, hexec] at h ⊢
    exact ih h

/-- What a run of serializer commands leaves: other serializer registers, and further responses. -/
def State.afterSer (s : State) (v : Ser) (rs : List Response) : State := { s with ser := v, resps := s.resps ++ rs }

theorem State.afterSer_afterSer (s : State) (v v' : Ser) (rs rs' : List Response) :
    (s.afterSer v rs).afterSer v' rs' = s.afterSer v' (rs ++ rs') := by
  simp [State.afterSer]

/-- Two serializer runs one after the other. -/
theorem runInstrs_append_afterSer {is js : List Instr} {s : State} {v v' : Ser} {rs rs' : List Response}
    (his : runInstrs is s = .next (s.afterSer v rs))
    (hjs : runInstrs js (s.afterSer v rs) = .next ((s.afterSer v rs).afterSer v' rs')) :
    runInstrs (is ++ js) s = .next (s.afterSer v' (rs ++ rs')) := by
  rw [runInstrs_append his, hjs, State.afterSer_afterSer]

/-! ### The response fields -/

/-- `RF` as a number: each flag at its weight (R72). -/
theorem resultFlags_eq_ofNat (b0 b1 b2 b3 : Bool) :
    resultFlags b0 b1 b2 b3 = BitVec.ofNat 8 (b0.toNat + 2 * b1.toNat + 4 * b2.toNat + 8 * b3.toNat) := by
  revert b0 b1 b2 b3
  decide

/-- What SER.NEXT answers for frame `k` of the sealed transfer `v` (R178). -/
def frameResponse (v : Ser) (k : Nat) : Response :=
  ⟨responseWord 0x00 (frameTail v.n v.tid.toNat k) (BitVec.ofNat 8 (frameData v.stream v.m.toNat k).length)
    (BitVec.ofNat 8 ((decide (k = 0)).toNat + 2 * (decide (k + 1 = v.n)).toNat + 4 * (decide (k % 2 = 0)).toNat
      + 8 * v.lb.toNat)) v.ident,
    wireFrame v.stream v.m.toNat v.n v.tid.toNat k⟩

/-- The frames' responses do not depend on where the cursor stands. -/
theorem frameResponse_cursor (v : Ser) (j : Nat) : frameResponse { v with k := j } = frameResponse v := rfl

/-! ### The commands, one by one -/

theorem respond_withSer (q : Reply) (s : State) (v : Ser) :
    respond q (s.withSer v) = .next (s.afterSer v [packReply q]) := rfl

theorem respond_ok_withSer (s : State) (v : Ser) :
    respond { st := .ok } (s.withSer v) = .next (s.afterSer v [⟨0, []⟩]) := by
  rw [respond_withSer, packReply_status]
  rfl

/-- A raised status leaves the serializer as it was. -/
theorem raise_afterSer (st : Status) (s : State) :
    raise st s = .next (s.afterSer s.ser [⟨(statusCode st).setWidth 64, []⟩]) := by
  rw [← packReply_status]
  rfl

theorem exec_serStart {m : Byte} (hm : m ≠ 0) (tid : Byte) (lb : Bool) (ident : BitVec 32) (s : State) :
    exec (.serStart m tid lb ident) s = .next (s.afterSer ⟨.collect, m, tid, ident, lb, [], [], 0, 0⟩ [⟨0, []⟩]) := by
  rw [exec, execSerStart, if_neg hm, respond_ok_withSer]

theorem exec_serFrag {s : State} {d : Bytes} (hphase : s.ser.phase = .collect)
    (hcap : admits s.params.txCap (s.ser.payload.length + d.length) = true) :
    exec (.serFrag d) s = .next (s.afterSer { s.ser with payload := s.ser.payload ++ d } [⟨0, []⟩]) := by
  rw [exec, execSerFrag, if_neg (not_not.mpr hphase), if_neg (by simp [hcap]), respond_ok_withSer]

theorem exec_serSeal {s : State} {t : TxStream} (hphase : s.ser.phase = .collect)
    (ht : t = txStream s.ser.payload s.ser.m.toNat) :
    exec .serSeal s = .next
      (s.afterSer { s.ser with phase := .emit, payload := [], stream := t.bytes, n := t.frames, k := 0 }
        [⟨responseWord 0x00 (BitVec.ofNat 8 t.pad) 0 (BitVec.ofNat 8 t.single.toNat) (BitVec.ofNat 32 t.frames), []⟩]) := by
  simp [exec, execSerSeal, hphase, ← ht, respond_withSer, packReply, statusCode, resultFlags_eq_ofNat]

/-- SER.NEXT before the end answers the frame at the cursor (R178). -/
theorem exec_serNext {s : State} (hphase : s.ser.phase = .emit) (hk : s.ser.k < s.ser.n) :
    exec .serNext s = .next (s.afterSer { s.ser with k := s.ser.k + 1 } [frameResponse s.ser s.ser.k]) := by
  have hlast : s.ser.k = s.ser.n - 1 ↔ s.ser.k + 1 = s.ser.n := by omega
  simp [exec, execSerNext, hphase, hk.ne, hlast, respond_withSer, packReply, statusCode, resultFlags_eq_ofNat,
    frameResponse, wireFrame]

theorem exec_serNext_exhausted {s : State} (hphase : s.ser.phase = .emit) (hk : s.ser.k = s.ser.n) :
    exec .serNext s = .next (s.afterSer s.ser [⟨0x02, []⟩]) := by
  simp [exec, execSerNext, hphase, hk, raise_afterSer, statusCode]

/-! ### The transfer, part by part -/

/-- The fragments of a transfer leave their bytes, in order, behind the payload collected before (R174). -/
theorem runInstrs_serFrags (frags : List Bytes) {s : State} (hphase : s.ser.phase = .collect)
    (hcap : admits s.params.txCap (s.ser.payload.length + frags.flatten.length) = true) :
    runInstrs (frags.map .serFrag) s = .next
      (s.afterSer { s.ser with payload := s.ser.payload ++ frags.flatten } (List.replicate frags.length ⟨0, []⟩)) := by
  induction frags generalizing s with
  | nil => simp [runInstrs, State.afterSer]
  | cons d frags ih =>
    have hfirst := runInstrs_one (exec_serFrag (d := d) hphase (admits_mono (by simp) hcap))
    have hrun := runInstrs_append_afterSer hfirst
      (ih (by exact hphase) (by simpa [State.afterSer, Nat.add_assoc] using hcap))
    simpa [State.afterSer, List.replicate_succ] using hrun

/-- SER.NEXT `j` times answers the next `j` frames, while the transfer has them. -/
theorem runInstrs_serNexts (j : Nat) {s : State} (hphase : s.ser.phase = .emit) (hk : s.ser.k + j ≤ s.ser.n) :
    runInstrs (List.replicate j .serNext) s = .next
      (s.afterSer { s.ser with k := s.ser.k + j } ((List.range' s.ser.k j).map (frameResponse s.ser))) := by
  induction j generalizing s with
  | zero => simp [runInstrs, State.afterSer]
  | succ j ih =>
    have hfirst := runInstrs_one (exec_serNext hphase (by omega))
    have hrun := runInstrs_append_afterSer hfirst (ih (by exact hphase) (by simp only [State.afterSer]; omega))
    simpa [State.afterSer, frameResponse_cursor, List.replicate_succ, List.range'_succ, Nat.add_assoc, Nat.add_comm 1 j]
      using hrun

/-- Settles O49: the five parts of the transfer, each from the state the ones before left. -/
theorem serializerEmitsTheFrames : Obligations.SerializerEmitsTheFrames := by
  intro s m tid lb ident frags t hm hcap ht
  have hstart := runInstrs_one (exec_serStart hm tid lb ident s)
  have hfrags := runInstrs_append_afterSer hstart (runInstrs_serFrags frags rfl (by simpa [State.afterSer] using hcap))
  have hseal := runInstrs_append_afterSer hfrags (runInstrs_one (exec_serSeal rfl ht))
  have hframes := runInstrs_append_afterSer hseal (runInstrs_serNexts t.frames rfl (Nat.zero_add _).le)
  have hdone := runInstrs_append_afterSer hframes (runInstrs_one (exec_serNext_exhausted rfl (Nat.zero_add _)))
  have hlist : expandPseudo (.serSend m tid lb ident frags) ++ List.replicate (t.frames + 1) .serNext
      = [.serStart m tid lb ident] ++ frags.map .serFrag ++ [.serSeal] ++ List.replicate t.frames .serNext ++ [.serNext] := by
    simp [expandPseudo, List.replicate_succ']
  rw [hlist, hdone]
  simp [State.afterSer, List.replicate_succ, List.range_eq_range', frameResponse]

end Sys2Proof.Machine
end

section
/-! PROOFS. The system commands (spec/40_system.md R100, R101) and the reset state (spec/70_reset_and_hazards.md R260). -/

namespace Sys2Proof

/-- Only `OPC` selects the command, whatever the other fields and the block hold (R74, R75). -/
theorem decode_of_fieldOpc {c : Command} {mn : Mnemonic} (h : fieldOpc c.word = opcodeOf mn) :
    decode c = .ok (readOperands c mn) :=
  decode_of_mnemonicOf (by rw [h, mnemonicOf_opcodeOf])

namespace Machine

/-- An OK with every other field 0 is the all-zero word with an empty block (R72, R77). -/
theorem respond_ok (s : State) : respond { st := .ok } s = .next { s with resps := s.resps ++ [⟨0, []⟩] } := by
  rw [respond_next, packReply_status]
  rfl

/-! ### NOP -/

theorem exec_nop (s : State) : exec .nop s = .next { s with resps := s.resps ++ [⟨0, []⟩] } :=
  respond_ok s

/-- Settles O21: `OPC` 0x00 is NOP's own, and NOP is an OK from the state as it stands. -/
theorem nopAnswersOk : Obligations.NopAnswersOk :=
  ⟨fun _ hopc => decode_of_fieldOpc (mn := .nop) hopc, exec_nop⟩

/-! ### RESET -/

/-- RESET answers OK from the state with every register reset. -/
theorem exec_reset (s : State) : exec .reset s = .next { s.applyReset with resps := s.resps ++ [⟨0, []⟩] } :=
  respond_ok s.applyReset

/-- Settles O22: `OPC` 0x01 is RESET's own, the reset state holds the table's values register by register, and RESET applies it
to all but the ports. -/
theorem resetSetsEveryRegister : Obligations.ResetSetsEveryRegister := by
  refine ⟨fun _ hopc => decode_of_fieldOpc (mn := .reset) hopc, fun p => ?registers, rfl, exec_reset⟩
  case registers => exact ⟨rfl, rfl, rfl, rfl, rfl⟩

end Machine
end Sys2Proof
end

section
/-! PROOFS. The DLC table and the padding calculator (spec/41_dlc_padding.md): both search the legal lengths, which rise, so what
they find first is the least. -/

namespace Sys2Proof.Machine

/-! ### The least legal length -/

/-- `l` is the least legal length that is at least `n` (R110). -/
structure LeastLegal (n l : Nat) : Prop where
  mem : l ∈ legalLengths
  ge : n ≤ l
  least : ∀ k ∈ legalLengths, n ≤ k → l ≤ k

/-- In a rising list, what a search finds first is the least it could find. -/
theorem le_of_find?_eq_some {xs : List Nat} (hxs : xs.Pairwise (· ≤ ·)) {p : Nat → Bool} {l : Nat} (h : xs.find? p = some l) :
    ∀ k ∈ xs, p k = true → l ≤ k := by
  obtain ⟨_, before, after, rfl, hbefore⟩ := List.find?_eq_some_iff_append.mp h
  obtain ⟨_, hafter, _⟩ := List.pairwise_append.mp hxs
  intro k hk hpk
  obtain hk | hk := List.mem_append.mp hk
  · exact absurd hpk (by simpa using hbefore k hk)
  · obtain rfl | hk := List.mem_cons.mp hk
    · exact le_rfl
    · exact List.rel_of_pairwise_cons hafter hk

theorem legalLengths_rising : legalLengths.Pairwise (· ≤ ·) := by decide

theorem leastLegal_of_dlcCeil {n l : Nat} (h : dlcCeil n = some l) : LeastLegal n l where
  mem := List.mem_of_find?_eq_some h
  ge := by simpa using List.find?_some h
  least k hk hnk := le_of_find?_eq_some legalLengths_rising h k hk (by simpa using hnk)

/-- 64 is the greatest legal length. -/
theorem le_of_mem_legalLengths : ∀ l ∈ legalLengths, l ≤ 64 := by decide

theorem dlcCeil_eq_none_iff {n : Nat} : dlcCeil n = none ↔ 64 < n := by
  simp only [dlcCeil, List.find?_eq_none, decide_eq_true_eq, not_le]
  exact ⟨fun h => h 64 (by decide), fun h l hl => (le_of_mem_legalLengths l hl).trans_lt h⟩

/-- The padding reaches the least legal length if that is within `M` (R111), and is 0 where nothing legal lies in `[n, M]`
(R112). -/
theorem requiredPadding_cases (n m : Nat) :
    (∃ l, LeastLegal n l ∧ l ≤ m ∧ requiredPadding n m = l - n)
    ∨ ((∀ l ∈ legalLengths, ¬ (n ≤ l ∧ l ≤ m)) ∧ requiredPadding n m = 0) := by
  unfold requiredPadding
  split
  case h_1 l hl =>
    obtain ⟨hnl, hlm⟩ : n ≤ l ∧ l ≤ m := by simpa using List.find?_some hl
    have hleast (k : Nat) (hk : k ∈ legalLengths) (hnk : n ≤ k) : l ≤ k := by
      obtain hkm | hmk := le_or_gt k m
      · exact le_of_find?_eq_some legalLengths_rising hl k hk (by simp [hnk, hkm])
      · exact hlm.trans hmk.le
    exact .inl ⟨l, ⟨List.mem_of_find?_eq_some hl, hnl, hleast⟩, hlm, rfl⟩
  case h_2 hnone => exact .inr ⟨by simpa using hnone, rfl⟩

/-! ### The laws of the padding -/

/-- Every length up to 8 is legal, so it is its own least legal length. -/
theorem LeastLegal.eq_of_le_eight {n l : Nat} (h : LeastLegal n l) (hn : n ≤ 8) : l = n := by
  have hlegal : ∀ k ≤ 8, k ∈ legalLengths := by decide
  exact le_antisymm (h.least n (hlegal n hn) le_rfl) h.ge

/-- Each legal length but 0 stands at most 16 above another, and the gaps of 16 end at 48 and 64 (R110). -/
theorem legalLengths_gap : ∀ l ∈ legalLengths, l ≠ 0 →
    ∃ k ∈ legalLengths, k < l ∧ l ≤ k + 16 ∧ (l = k + 16 → l = 48 ∨ l = 64) := by decide

/-- Nothing legal stands inside the two gaps of 16. -/
theorem legalLengths_above_gap : ∀ l ∈ legalLengths, (33 ≤ l → 48 ≤ l) ∧ (49 ≤ l → 64 ≤ l) := by decide

/-- A length lies above the legal length before its least one, so nearer to it than that gap. -/
theorem LeastLegal.sub_le_fifteen {n l : Nat} (h : LeastLegal n l) :
    l - n ≤ 15 ∧ (l - n = 15 → (n = 33 ∧ l = 48) ∨ (n = 49 ∧ l = 64)) := by
  obtain rfl | hlt := h.ge.eq_or_lt
  · omega
  · obtain ⟨k, hk, hkl, hgap, hwide⟩ := legalLengths_gap l h.mem (by omega)
    have hkn : k < n := lt_of_not_ge fun hnk => hkl.not_ge (h.least k hk hnk)
    omega

/-- No padding up to a capacity of 9: lengths up to 8 are legal, and 9 reaches nothing legal. -/
theorem requiredPadding_eq_zero (n : Nat) {m : Nat} (hm : m ≤ 9) : requiredPadding n m = 0 := by
  obtain ⟨l, hl, hlm, hpad⟩ | ⟨_, hpad⟩ := requiredPadding_cases n m
  · have hnine : l ≠ 9 := ne_of_mem_of_not_mem hl.mem (by decide)
    have hnl := hl.ge
    rw [hpad, hl.eq_of_le_eight (by omega), Nat.sub_self]
  · exact hpad

theorem requiredPadding_le (n m : Nat) : requiredPadding n m ≤ 15 := by
  obtain ⟨l, hl, _, hpad⟩ | ⟨_, hpad⟩ := requiredPadding_cases n m
  · obtain ⟨hle, _⟩ := hl.sub_le_fifteen
    exact hpad.trans_le hle
  · omega

/-- The largest padding starts just above the lower end of a gap of 16, and needs a capacity that holds the upper end (R116). -/
theorem requiredPadding_eq_fifteen_iff (n m : Nat) :
    requiredPadding n m = 15 ↔ (n = 33 ∧ 48 ≤ m) ∨ (n = 49 ∧ 64 ≤ m) := by
  obtain ⟨l, hl, hlm, hpad⟩ | ⟨hnone, hpad⟩ := requiredPadding_cases n m
  · obtain ⟨_, hwide⟩ := hl.sub_le_fifteen
    obtain ⟨h33, h49⟩ := legalLengths_above_gap l hl.mem
    have hge := hl.ge
    have h48 := hl.least 48 (by decide)
    have h64 := hl.least 64 (by decide)
    omega
  · have h48 := hnone 48 (by decide)
    have h64 := hnone 64 (by decide)
    omega

/-- Settles O25: where there is padding it reaches the least legal length, whose distance the gaps bound. -/
theorem paddingLaws : Obligations.PaddingLaws := by
  intro n m hnm
  have hlegal : n + requiredPadding n m ∈ legalLengths
      ∨ ((∀ l ∈ legalLengths, ¬ (n ≤ l ∧ l ≤ m)) ∧ requiredPadding n m = 0) := by
    refine (requiredPadding_cases n m).imp_left fun ⟨l, hl, _, hpad⟩ => ?_
    rw [hpad, Nat.add_sub_of_le hl.ge]
    exact hl.mem
  exact ⟨add_requiredPadding_le hnm, hlegal, fun hm => requiredPadding_eq_zero n (by omega),
    fun hm => requiredPadding_eq_zero n hm.le, requiredPadding_le n m, requiredPadding_eq_fifteen_iff n m⟩

/-! ### The commands -/

/-- An OK with a result in `RW` alone (R72). -/
theorem respond_ok_rw (x : BitVec 32) (s : State) :
    respond { st := .ok, rw := x } s = .next { s with resps := s.resps ++ [⟨responseWord 0x00 0 0 0 x, []⟩] } := rfl

theorem raise_badOperand (s : State) : raise .badOperand s = .next { s with resps := s.resps ++ [⟨0x21, []⟩] } := by
  rw [raise_next, packReply_status]
  rfl

theorem exec_dlcCeil_of_some {n : BitVec 32} {l : Nat} (h : dlcCeil n.toNat = some l) (s : State) :
    exec (.dlcCeil n) s = .next { s with resps := s.resps ++ [⟨responseWord 0x00 0 0 0 (BitVec.ofNat 32 l), []⟩] } := by
  simp only [exec, execDlcCeil, h, respond_ok_rw]

theorem exec_dlcCeil_of_none {n : BitVec 32} (h : dlcCeil n.toNat = none) (s : State) :
    exec (.dlcCeil n) s = .next { s with resps := s.resps ++ [⟨0x21, []⟩] } := by
  simp only [exec, execDlcCeil, h, raise_badOperand]

/-- Settles O23: `OPC` 0x10 is DLC.CEIL's own, and its search of the table fails above 64 only. -/
theorem dlcCeilAnswersTheLeastLegalLength : Obligations.DlcCeilAnswersTheLeastLegalLength := by
  refine ⟨fun _ hopc => decode_of_fieldOpc (mn := .dlcCeil) hopc, fun n s => ?_⟩
  split
  next hn =>
    obtain ⟨l, hl⟩ := Option.ne_none_iff_exists'.mp (mt dlcCeil_eq_none_iff.mp hn.not_gt)
    obtain ⟨hmem, hge, hleast⟩ := leastLegal_of_dlcCeil hl
    exact ⟨l, hmem, hge, hleast, exec_dlcCeil_of_some hl s⟩
  next hn => exact exec_dlcCeil_of_none (dlcCeil_eq_none_iff.mpr (not_le.mp hn)) s

theorem exec_padReq_of_le {m : Byte} {n : BitVec 32} (h : n.toNat ≤ m.toNat) (s : State) :
    exec (.padReq m n) s = .next { s with
      resps := s.resps ++ [⟨responseWord 0x00 0 0 0 (BitVec.ofNat 32 (requiredPadding n.toNat m.toNat)), []⟩] } := by
  simp only [exec, execPadReq, if_neg h.not_gt, respond_ok_rw]

theorem exec_padReq_of_lt {m : Byte} {n : BitVec 32} (h : m.toNat < n.toNat) (s : State) :
    exec (.padReq m n) s = .next { s with resps := s.resps ++ [⟨0x21, []⟩] } := by
  simp only [exec, execPadReq, if_pos h, raise_badOperand]

/-- Settles O24: `OPC` 0x11 is PAD.REQ's own, and it answers the padding, which is either of its two cases. -/
theorem padReqAnswersTheLeastPadding : Obligations.PadReqAnswersTheLeastPadding := by
  refine ⟨fun _ hopc => decode_of_fieldOpc (mn := .padReq) hopc, fun m n s => ?_⟩
  split
  next hnm =>
    refine ⟨_, exec_padReq_of_le hnm s, (requiredPadding_cases n.toNat m.toNat).imp_left ?_⟩
    rintro ⟨l, ⟨hmem, hge, hleast⟩, hlm, hpad⟩
    exact ⟨l, hmem, hge, hlm, hleast, hpad⟩
  next hnm => exact exec_padReq_of_lt (not_le.mp hnm) s

end Sys2Proof.Machine
end

section
/-! PROOFS. The CRC function and the CRC unit (spec/42_crc.md). One round of `crc_update` is linear and loses nothing; so the
whole CRC is affine, and it tells apart two buffers that differ in one byte. -/

namespace Sys2Proof.Machine

/-! ### One round -/

/-- A round is a shift and, where the top bit leaves, the polynomial (R121). -/
theorem crcShift_eq (c : BitVec 16) : crcShift c = c <<< 1 ^^^ if c.getLsbD 15 then crcPoly else 0#16 := by
  unfold crcShift
  split <;> simp

/-- The round is linear: where both top bits leave, the two additions of the polynomial cancel. -/
theorem crcShift_xor (c d : BitVec 16) : crcShift (c ^^^ d) = crcShift c ^^^ crcShift d := by
  have hterm (x y : Bool) : (if x ^^ y then crcPoly else 0#16)
      = (if x then crcPoly else 0#16) ^^^ if y then crcPoly else 0#16 := by
    cases x <;> cases y <;> rfl
  simp only [crcShift_eq, BitVec.getLsbD_xor, BitVec.shiftLeft_xor_distrib, hterm]
  ac_rfl

theorem crcShift_zero : crcShift 0#16 = 0#16 := rfl

/-- The round loses no bit: the polynomial's low bit tells whether the top bit left, and the other bits are still there. -/
theorem eq_zero_of_crcShift_eq_zero {c : BitVec 16} (h : crcShift c = 0#16) : c = 0#16 := by
  rw [crcShift_eq] at h
  have htop : c.getLsbD 15 = false := by
    have hlow := congrArg (BitVec.getLsbD · 0) h
    by_contra hc
    simp [Bool.eq_true_of_not_eq_false hc, crcPoly] at hlow
  have hshift : c <<< 1 = 0#16 := by simpa only [htop, Bool.false_eq_true, if_false, BitVec.xor_zero] using h
  apply BitVec.eq_of_getLsbD_eq
  intro i hi
  rcases Nat.lt_succ_iff_lt_or_eq.mp hi with hi' | rfl
  · have hbit := congrArg (BitVec.getLsbD · (i + 1)) hshift
    simpa [show i + 1 < 16 by omega, ← BitVec.getLsbD_eq_getElem] using hbit
  · exact htop

theorem crcShift_injective : Function.Injective crcShift := fun c d h =>
  BitVec.xor_eq_zero_iff.mp (eq_zero_of_crcShift_eq_zero (by rw [crcShift_xor, h, BitVec.xor_self]))

theorem iterate_crcShift_xor (n : Nat) (c d : BitVec 16) :
    crcShift^[n] (c ^^^ d) = crcShift^[n] c ^^^ crcShift^[n] d :=
  Function.Semiconj₂.iterate crcShift_xor n c d

/-- Up to eight rounds on a byte only shift it: no bit of it has reached the top. -/
theorem iterate_crcShift_setWidth (b : Byte) {n : Nat} (hn : n ≤ 8) : crcShift^[n] (b.setWidth 16) = b.setWidth 16 <<< n := by
  induction n with
  | zero => simp
  | succ n ih =>
    have htop : (b.setWidth 16 <<< n).getLsbD 15 = false := by
      simp [BitVec.getLsbD_of_ge b (15 - n) (by omega)]
    rw [Function.iterate_succ_apply', ih (by omega), crcShift_eq, htop, BitVec.shiftLeft_add]
    simp

/-! ### One byte -/

theorem crcUpdate_eq (c : BitVec 16) (b : Byte) : crcUpdate c b = crcShift^[8] (c ^^^ b.setWidth 16 <<< 8) := rfl

/-- A byte's update is linear in the register and the byte together. -/
theorem crcUpdate_xor (c d : BitVec 16) (a b : Byte) :
    crcUpdate (c ^^^ d) (a ^^^ b) = crcUpdate c a ^^^ crcUpdate d b := by
  simp only [crcUpdate_eq, ← iterate_crcShift_xor, BitVec.setWidth_xor, BitVec.shiftLeft_xor_distrib]
  congr 1
  ac_rfl

theorem crcUpdate_left_injective (b : Byte) : Function.Injective (crcUpdate · b) := fun _ _ h =>
  (BitVec.xor_left_inj _).mp (crcShift_injective.iterate 8 h)

theorem crcUpdate_right_injective (c : BitVec 16) : Function.Injective (crcUpdate c) := fun a b h => by
  have hshift : a.setWidth 16 <<< 8 = b.setWidth 16 <<< 8 :=
    (BitVec.xor_right_inj c).mp (crcShift_injective.iterate 8 h)
  apply BitVec.eq_of_getLsbD_eq
  intro i hi
  have hbit := congrArg (BitVec.getLsbD · (8 + i)) hshift
  simpa [show 8 + i < 16 by omega] using hbit

/-! ### The bits of a byte, most significant first -/

/-- One message bit into the register: the polynomial is added where the bit that leaves differs from the one that arrives. -/
def crcFeedBit (c : BitVec 16) (x : Bool) : BitVec 16 :=
  if (c.getLsbD 15 != x) = true then (c <<< 1) ^^^ 0x1021#16 else c <<< 1

theorem crcFeedBit_eq (c : BitVec 16) (x : Bool) :
    crcFeedBit c x = c <<< 1 ^^^ if c.getLsbD 15 ^^ x then crcPoly else 0#16 := by
  unfold crcFeedBit
  cases c.getLsbD 15 <;> cases x <;> simp [crcPoly]

/-- The byte added at the top gives up one bit per round; what is left of it only shifts along. -/
theorem crcShift_xor_byte (c : BitVec 16) (b : Byte) {n : Nat} (hn : n < 8) :
    crcShift (c ^^^ b.setWidth 16 <<< (8 + n)) = crcFeedBit c (b.getLsbD (7 - n)) ^^^ b.setWidth 16 <<< (8 + (n + 1)) := by
  have htop : (b.setWidth 16 <<< (8 + n)).getLsbD 15 = b.getLsbD (7 - n) := by
    simp [show 8 + n ≤ 15 by omega, show 15 - (8 + n) = 7 - n by omega]
  rw [crcShift_eq, BitVec.getLsbD_xor, htop, BitVec.shiftLeft_xor_distrib, ← BitVec.shiftLeft_add, crcFeedBit_eq,
    Nat.add_assoc]
  ac_rfl

/-- `n` rounds of `crc_update` have taken the byte's top `n` bits. -/
theorem iterate_crcShift_xor_byte (c : BitVec 16) (b : Byte) {n : Nat} (hn : n ≤ 8) :
    crcShift^[n] (c ^^^ b.setWidth 16 <<< 8)
      = ((List.range n).map fun i => b.getLsbD (7 - i)).foldl crcFeedBit c ^^^ b.setWidth 16 <<< (8 + n) := by
  induction n with
  | zero => simp
  | succ n ih =>
    rw [Function.iterate_succ_apply', ih (by omega), crcShift_xor_byte _ _ (by omega), List.range_succ]
    simp

/-- Settles O30: after eight rounds nothing of the byte is left in the register beside its bits taken one by one. -/
theorem crcTakesBitsMostSignificantFirst : Obligations.CrcTakesBitsMostSignificantFirst := by
  intro c b
  have hgone : b.setWidth 16 <<< 16 = 0#16 := BitVec.shiftLeft_eq_zero le_rfl
  calc crcUpdate c b
      = ((List.range 8).map fun i => b.getLsbD (7 - i)).foldl crcFeedBit c ^^^ b.setWidth 16 <<< 16 :=
        iterate_crcShift_xor_byte c b le_rfl
    _ = ((List.range 8).map fun i => b.getLsbD (7 - i)).foldl crcFeedBit c := by rw [hgone, BitVec.xor_zero]

/-! ### Sequences -/

theorem crc16_append (c : BitVec 16) (xs ys : Bytes) : crc16 c (xs ++ ys) = crc16 (crc16 c xs) ys :=
  List.foldl_append

theorem crc16_injective (xs : Bytes) : Function.Injective (crc16 · xs) := by
  induction xs with
  | nil => exact Function.injective_id
  | cons x xs ih => exact ih.comp (crcUpdate_left_injective x)

/-- The CRC is linear in the register and the sequence together (R128). -/
theorem crc16_zipWith_xor (c d : BitVec 16) {m e : Bytes} (h : m.length = e.length) :
    crc16 (c ^^^ d) (List.zipWith (· ^^^ ·) m e) = crc16 c m ^^^ crc16 d e := by
  induction m generalizing c d e with
  | nil =>
    obtain rfl := List.eq_nil_of_length_eq_zero h.symm
    rfl
  | cons x m ih =>
    obtain ⟨y, e, rfl⟩ := List.exists_cons_of_length_eq_add_one h.symm
    simpa [crcUpdate_xor] using ih (crcUpdate c x) (crcUpdate d y) (by simpa using h)

/-- Zero bytes leave a zero register at zero. -/
theorem crc16_rep_zero (k : Nat) : crc16 0 (rep 0 k) = 0 := by
  induction k with
  | zero => rfl
  | succ k ih => exact ih

/-- Two buffers that differ in one byte at most have the same CRC only where they are the same. -/
theorem crc16_one_byte_iff (c : BitVec 16) (p q : Bytes) (x y : Byte) :
    crc16 c (p ++ [x] ++ q) = crc16 c (p ++ [y] ++ q) ↔ x = y := by
  simp only [crc16_append]
  exact (crc16_injective q).eq_iff.trans (crcUpdate_right_injective _).eq_iff

/-! ### The digest -/

theorem readDigest_digest (c : BitVec 16) : readDigest (c.extractLsb' 8 8) (c.extractLsb' 0 8) = c := by
  apply BitVec.eq_of_getLsbD_eq
  intro i hi
  by_cases hlow : i < 8
  · simp [readDigest, hlow, hi]
  · simp [readDigest, hlow, hi, show i - 8 < 8 by omega, show 8 + (i - 8) = i by omega]

/-- The high digest byte cancels the register's high byte, which moves the low one up; the low digest byte cancels that. -/
theorem crc16_readDigest (hi lo : Byte) : crc16 (readDigest hi lo) [hi, lo] = 0 := by
  have hcancel : readDigest hi lo ^^^ hi.setWidth 16 <<< 8 = lo.setWidth 16 := by
    apply BitVec.eq_of_getLsbD_eq
    intro i _
    by_cases hlow : i < 8
    · simp [readDigest, hlow]
    · simp [readDigest, hlow, BitVec.getLsbD_of_ge lo i (by omega)]
  have hhigh : crcUpdate (readDigest hi lo) hi = lo.setWidth 16 <<< 8 := by
    rw [crcUpdate_eq, hcancel, iterate_crcShift_setWidth lo le_rfl]
  calc crc16 (readDigest hi lo) [hi, lo]
      = crcUpdate (lo.setWidth 16 <<< 8) lo := by rw [crc16_cons, hhigh]; rfl
    _ = 0 := by rw [crcUpdate_eq, BitVec.xor_self, Function.iterate_fixed crcShift_zero]; rfl

theorem crc16_pair_eq_zero_iff (c : BitVec 16) (hi lo : Byte) : crc16 c [hi, lo] = 0 ↔ c = readDigest hi lo := by
  rw [← crc16_readDigest hi lo]
  exact (crc16_injective [hi, lo]).eq_iff

theorem crcVerifies_append_pair (q : Bytes) (hi lo : Byte) :
    crcVerifies (q ++ [hi, lo]) = decide (crc16ccitt q = readDigest hi lo) := by
  simp [crcVerifies]

/-- The split-and-compare check of R206 as a residue: R208's short buffers fail it. -/
theorem crcVerifies_iff (b : Bytes) : crcVerifies b = true ↔ 2 ≤ b.length ∧ crc16 0xFFFF b = 0 := by
  match h : b.reverse with
  | [] => simp_all [crcVerifies]
  | [x] => simp_all [crcVerifies, List.reverse_eq_cons_iff]
  | lo :: hi :: q =>
    obtain rfl : b = q.reverse ++ [hi, lo] := by simpa using congrArg List.reverse h
    rw [crcVerifies_append_pair, decide_eq_true_iff, crc16_append, crc16_pair_eq_zero_iff]
    simp [crc16ccitt, crcInitial]

/-- Settles O32: a digest reads back as the CRC it is of, and the check is the residue. -/
theorem crcResidueIsZero : Obligations.CrcResidueIsZero := by
  refine ⟨fun m => ?_, fun b hb => (crcVerifies_iff b).trans (and_iff_right hb)⟩
  rw [crc16_append, digest, crc16_pair_eq_zero_iff, readDigest_digest]
  rfl

/-- Settles O33: the first part is linearity; in the other two the changed byte sets the CRC apart, from that of the zeros and
from the verifying buffer's residue 0. -/
theorem crcDetectsEverySingleBitError : Obligations.CrcDetectsEverySingleBitError := by
  have hbit : ∀ j < 8, 1#8 <<< j ≠ 0#8 := by decide
  refine ⟨fun m e h => ?_, fun i k j hj h => ?_, fun p q x j hj hver => ?_⟩
  · simpa [crc16ccitt] using crc16_zipWith_xor crcInitial 0 h
  · have hzeros : crc16 0 (rep 0 i ++ [0] ++ rep 0 k) = 0 := by
      have hrep : rep 0 i ++ [0] ++ rep 0 k = rep 0 (i + 1 + k) := by simp [rep, List.replicate_add]
      rw [hrep, crc16_rep_zero]
    exact hbit j hj ((crc16_one_byte_iff ..).mp (h.trans hzeros.symm))
  · rw [← Bool.not_eq_true]
    intro hver'
    obtain ⟨_, hresidue⟩ := (crcVerifies_iff _).mp hver
    obtain ⟨_, hresidue'⟩ := (crcVerifies_iff _).mp hver'
    have hx : x ^^^ 1#8 <<< j = x := (crc16_one_byte_iff ..).mp (hresidue'.trans hresidue.symm)
    exact hbit j hj (by simpa using hx)

/-! ### The commands -/

/-- What a run of CRC commands leaves: another `CRC`, and further responses. -/
def State.afterCrc (s : State) (v : BitVec 16) (rs : List Response) : State := { s with crc := v, resps := s.resps ++ rs }

theorem respond_ok_withCrc (s : State) (v : BitVec 16) :
    respond { st := .ok } (s.withCrc v) = .next (s.afterCrc v [⟨0, []⟩]) :=
  respond_ok (s.withCrc v)

theorem exec_crcAddb (b : Byte) (s : State) : exec (.crcAddb b) s = .next (s.afterCrc (crcUpdate s.crc b) [⟨0, []⟩]) :=
  respond_ok_withCrc s _

theorem exec_crcAdd (d : Bytes) (s : State) : exec (.crcAdd d) s = .next (s.afterCrc (crc16 s.crc d) [⟨0, []⟩]) :=
  respond_ok_withCrc s _

/-- Settles O26: `OPC` 0x20 is CRC.INIT's own, and CRC.INIT is an OK with the initial value written. -/
theorem crcInitStartsAChecksum : Obligations.CrcInitStartsAChecksum :=
  ⟨fun _ hopc => decode_of_fieldOpc (mn := .crcInit) hopc, fun s => respond_ok_withCrc s crcInitial⟩

/-- Settles O27: `OPC` 0x21 is CRC.ADDB's own, and CRC.ADDB is an OK with the updated value written. -/
theorem crcAddbFeedsOneByte : Obligations.CrcAddbFeedsOneByte :=
  ⟨fun _ hopc => decode_of_fieldOpc (mn := .crcAddb) hopc, exec_crcAddb⟩

/-- Settles O28: `OPC` 0x22 is CRC.ADD's own, and CRC.ADD is an OK with the block's CRC written. -/
theorem crcAddFeedsTheBlock : Obligations.CrcAddFeedsTheBlock :=
  ⟨fun _ hopc => decode_of_fieldOpc (mn := .crcAdd) hopc, exec_crcAdd⟩

/-- The digest's bytes as numbers, high byte first. -/
theorem digest_eq_ofNat (c : BitVec 16) : digest c = [BitVec.ofNat 8 (c.toNat / 256), BitVec.ofNat 8 (c.toNat % 256)] := by
  have hlow : BitVec.ofNat 8 (c.toNat % 256) = BitVec.ofNat 8 c.toNat := BitVec.eq_of_toNat_eq (by simp)
  rw [hlow, digest, BitVec.extractLsb', BitVec.extractLsb', Nat.shiftRight_eq_div_pow]
  rfl

/-- Settles O29: `OPC` 0x23 is CRC.READ's own, and CRC.READ is an OK from the state as it stands. -/
theorem crcReadAnswersTheRegister : Obligations.CrcReadAnswersTheRegister := by
  refine ⟨fun _ hopc => decode_of_fieldOpc (mn := .crcRead) hopc, fun s => ?_⟩
  rw [BitVec.ofNat_toNat, ← digest_eq_ofNat]
  rfl

/-- Commands that each feed their bytes, run one after the other, feed all of them in order (R126). -/
theorem runInstrs_crcFeeds {α : Type} {cmd : α → Instr} {bytes : α → Bytes}
    (hcmd : ∀ a s, exec (cmd a) s = .next (s.afterCrc (crc16 s.crc (bytes a)) [⟨0, []⟩])) (as : List α) (s : State) :
    runInstrs (as.map cmd) s = .next (s.afterCrc (crc16 s.crc (as.flatMap bytes)) (List.replicate as.length ⟨0, []⟩)) := by
  induction as generalizing s with
  | nil => simp [runInstrs, State.afterCrc]
  | cons a as ih =>
    simp [runInstrs, hcmd, ih, State.afterCrc, crc16_append, List.replicate_succ]

/-- Settles O31: bytes and pieces are both runs of feeding commands, and one CRC.ADD feeds what they feed together. -/
theorem crcIsIncremental : Obligations.CrcIsIncremental := by
  refine ⟨crc16_append, fun s xs => ?_, fun s xss => ?_⟩
  · have hrun := runInstrs_crcFeeds (bytes := fun b => [b]) exec_crcAddb xs s
    rw [List.flatMap_singleton'] at hrun
    exact ⟨_, _, hrun, exec_crcAdd xs s, rfl, rfl, rfl, rfl, rfl⟩
  · have hrun := runInstrs_crcFeeds (bytes := id) exec_crcAdd xss s
    rw [List.flatMap_id] at hrun
    exact ⟨_, _, hrun, exec_crcAdd xss.flatten s, rfl, rfl, rfl, rfl, rfl⟩

end Sys2Proof.Machine
end

section
/-! PROOFS. The tail-byte codec (spec/43_tail_codec.md R140 to R142) and its commands (R143, R144). The four fields lie side by
side in the byte, so each is read back as it was written, and the byte's value is the sum of the fields at their places. -/

namespace Sys2Proof.Machine

/-! ### The byte as its four fields -/

/-- The fields fill the byte, SOT highest, and of the transfer id only its low five bits reach it (R140). -/
theorem tailEncode_eq_append (sot eot tgl : Bool) (tid : Nat) :
    tailEncode sot eot tgl tid
      = BitVec.ofBool sot ++ BitVec.ofBool eot ++ BitVec.ofBool tgl ++ BitVec.ofNat 5 tid := by
  refine BitVec.eq_of_getLsbD_eq fun k hk => ?_
  have htid : (tid % 32).testBit k = (decide (k < 5) && tid.testBit k) := Nat.testBit_mod_two_pow tid 5 k
  simp only [tailEncode, BitVec.getLsbD_or, BitVec.getLsbD_append, BitVec.getLsbD_ofNat, BitVec.getLsbD_ofBool, htid]
  grind [getLsbD_flagBit]

/-- The byte's value is the sum of its fields, each at its place (R140). -/
theorem tailEncode_eq_ofNat (sot eot tgl : Bool) (tid : Nat) :
    tailEncode sot eot tgl tid = BitVec.ofNat 8 (128 * sot.toNat + 64 * eot.toNat + 32 * tgl.toNat + tid % 32) := by
  have hsot := sot.toNat_le
  have heot := eot.toNat_le
  have htgl := tgl.toNat_le
  refine BitVec.eq_of_toNat_eq ?_
  simp only [tailEncode_eq_append, toNat_append_eq_add, BitVec.toNat_ofBool, BitVec.toNat_ofNat]
  omega

/-! ### The round trips -/

@[simp] theorem tailDecode_tailEncode (sot eot tgl : Bool) (tid : Nat) :
    tailDecode (tailEncode sot eot tgl tid) = ⟨sot, eot, tgl, BitVec.ofNat 5 tid⟩ := by
  simp only [tailEncode_eq_append, tailDecode, BitVec.getLsbD_append, BitVec.getLsbD_ofBool,
    BitVec.extractLsb'_append_eq_right]
  simp

@[simp] theorem tailEncode_tailDecode (x : Byte) :
    tailEncode (tailDecode x).sot (tailDecode x).eot (tailDecode x).tgl (tailDecode x).tid.toNat = x := by
  refine BitVec.eq_of_getLsbD_eq fun k hk => ?_
  rw [tailEncode_eq_append, BitVec.ofNat_toNat, BitVec.setWidth_eq]
  simp only [tailDecode, BitVec.getLsbD_append, BitVec.getLsbD_ofBool, BitVec.getLsbD_extractLsb']
  obtain hk | rfl | rfl | rfl : k < 5 ∨ k = 5 ∨ k = 6 ∨ k = 7 := by omega
  · simp [hk]
  all_goals rfl

/-- The three flags and the transfer id of a tail byte, the inverse of encoding an id below 32 (R142). -/
def tailFields (x : Byte) : (Bool × Bool × Bool) × Fin 32 :=
  (((tailDecode x).sot, (tailDecode x).eot, (tailDecode x).tgl), (tailDecode x).tid.toFin)

theorem tailFields_tailEncode (sot eot tgl : Bool) (tid : Fin 32) :
    tailFields (tailEncode sot eot tgl tid) = ((sot, eot, tgl), tid) := by
  simp [tailFields]

/-- Settles O36: encoding and decoding undo each other, and so do encoding and `tailFields`. -/
theorem tailCodecRoundTrip : Obligations.TailCodecRoundTrip := by
  refine ⟨fun sot eot tgl tid => ?_, tailEncode_tailDecode, ?_⟩
  · have hwrap : BitVec.ofNat 5 (tid % 32) = BitVec.ofNat 5 tid := BitVec.eq_of_toNat_eq (by simp)
    rw [hwrap, tailDecode_tailEncode]
  · exact Function.bijective_iff_has_inverse.mpr ⟨tailFields, fun q => tailFields_tailEncode .., tailEncode_tailDecode⟩

/-! ### The commands -/

/-- Settles O34: `OPC` 0x30 is TAIL.ENC's own, and TAIL.ENC answers the encoded byte as a number. -/
theorem tailEncAnswersTheTailByte : Obligations.TailEncAnswersTheTailByte := by
  refine ⟨fun c hopc => ?_, fun sot eot tgl tid s => ?_⟩
  · rw [decode_of_fieldOpc (mn := .tailEnc) hopc, readOperands]
    simp only [flagF_eq_getLsbD, Nat.reduceLT, fieldW]
  · rw [← tailEncode_eq_ofNat]
    rfl

/-- Settles O35: `OPC` 0x31 is TAIL.DEC's own, and TAIL.DEC answers the decoded fields as numbers. -/
theorem tailDecAnswersTheFields : Obligations.TailDecAnswersTheFields := by
  refine ⟨fun c hopc => decode_of_fieldOpc (mn := .tailDec) hopc, fun t s => ?_⟩
  have htid : (tailDecode t).tid.setWidth 8 = BitVec.ofNat 8 (t.toNat % 32) := BitVec.eq_of_toNat_eq (by simp [tailDecode])
  rw [exec, execTailDec, htid, resultFlags_eq_ofNat]
  rfl

end Sys2Proof.Machine
end

section
/-! PROOFS. The chunking function and the refragmenter's commands (spec/44_refragmenter.md). The laws of `refrag` follow its
recursion. A run agrees with it because each command, whatever the phase, splits `refrag` of the bytes still to be emitted into
the chunk it answers, if any, and `refrag` of the bytes that are left. -/

namespace Sys2Proof.Machine

/-! ### The laws of `refrag` (R155, R156) -/

theorem refrag_nil (c : Nat) : refrag [] c = [] := rfl

/-- What is no longer than a chunk is the final chunk. -/
theorem refrag_of_length_le {xs : Bytes} {c : Nat} (hc : 1 ≤ c) (hne : xs ≠ []) (hle : xs.length ≤ c) : refrag xs c = [xs] := by
  rw [refrag_eq xs c hc, if_neg hne, if_pos hle]

/-- A full chunk comes first; where nothing is left behind it, it is the final one. -/
theorem refrag_of_le_length {xs : Bytes} {c : Nat} (hc : 1 ≤ c) (hle : c ≤ xs.length) :
    refrag xs c = xs.take c :: refrag (xs.drop c) c := by
  have hne : xs ≠ [] := List.ne_nil_of_length_pos (by omega)
  obtain heq | hlt := hle.eq_or_lt
  · rw [refrag_of_length_le hc hne heq.ge, List.take_of_length_le heq.ge, List.drop_of_length_le heq.ge, refrag_nil]
  · rw [refrag_eq xs c hc, if_neg hne, if_neg hlt.not_ge]

/-- Induction along R150's recursion: no input, a final chunk, or a full chunk with more behind it. -/
theorem refrag_induction {c : Nat} (hc : 1 ≤ c) {P : Bytes → List Bytes → Prop} (nil : P [] [])
    (final : ∀ xs : Bytes, xs ≠ [] → xs.length ≤ c → P xs [xs])
    (full : ∀ xs : Bytes, c < xs.length → P (xs.drop c) (refrag (xs.drop c) c) → P xs (xs.take c :: refrag (xs.drop c) c))
    (xs : Bytes) : P xs (refrag xs c) := by
  induction hn : xs.length using Nat.strong_induction_on generalizing xs with
  | _ n ih =>
    by_cases hne : xs = []
    · rwa [hne, refrag_nil]
    · obtain hle | hlt := le_or_gt xs.length c
      · rw [refrag_of_length_le hc hne hle]
        exact final xs hne hle
      · rw [refrag_of_le_length hc hlt.le]
        exact full xs hlt (ih _ (by rw [List.length_drop]; omega) _ rfl)

theorem flatten_refrag {c : Nat} (hc : 1 ≤ c) (xs : Bytes) : (refrag xs c).flatten = xs := by
  refine refrag_induction (P := fun xs chs => chs.flatten = xs) hc rfl ?final ?full xs
  case final => exact fun xs _ _ => List.flatten_singleton
  case full => exact fun xs _ ih => by rw [List.flatten_cons, ih, List.take_append_drop]

theorem refrag_ne_nil {c : Nat} (hc : 1 ≤ c) {xs : Bytes} (hne : xs ≠ []) : refrag xs c ≠ [] := fun h =>
  hne (by rw [← flatten_refrag hc xs, h, List.flatten_nil])

theorem ne_nil_of_mem_refrag {c : Nat} (hc : 1 ≤ c) (xs : Bytes) : ∀ ch ∈ refrag xs c, ch ≠ [] := by
  refine refrag_induction (P := fun _ chs => ∀ ch ∈ chs, ch ≠ []) hc nofun ?final ?full xs
  case final => exact fun xs hne _ => List.forall_mem_singleton.mpr hne
  case full =>
    exact fun xs hlt ih => List.forall_mem_cons.mpr ⟨List.ne_nil_of_length_pos (by rw [List.length_take]; omega), ih⟩

theorem length_of_mem_dropLast_refrag {c : Nat} (hc : 1 ≤ c) (xs : Bytes) :
    ∀ ch ∈ (refrag xs c).dropLast, ch.length = c := by
  refine refrag_induction (P := fun _ chs => ∀ ch ∈ chs.dropLast, ch.length = c) hc nofun ?final ?full xs
  case final => exact fun xs _ _ => nofun
  case full =>
    intro xs hlt ih
    have hrest : refrag (xs.drop c) c ≠ [] := refrag_ne_nil hc (by simpa using hlt)
    rw [List.dropLast_cons_of_ne_nil hrest]
    exact List.forall_mem_cons.mpr ⟨List.length_take_of_le hlt.le, ih⟩

/-- The last chunk is the remainder, or a full chunk where there is none. -/
theorem length_getLast?_refrag {c : Nat} (hc : 1 ≤ c) (xs : Bytes) :
    ∀ ch, (refrag xs c).getLast? = some ch → 1 ≤ ch.length ∧ ch.length ≤ c ∧ (xs.length % c = 0 → ch.length = c) := by
  refine refrag_induction (P := fun xs chs => ∀ ch, chs.getLast? = some ch →
    1 ≤ ch.length ∧ ch.length ≤ c ∧ (xs.length % c = 0 → ch.length = c)) hc nofun ?final ?full xs
  case final =>
    intro xs hne hle ch hch
    obtain rfl : xs = ch := by simpa using hch
    have hpos := List.length_pos_of_ne_nil hne
    exact ⟨hpos, hle, fun hmod => hle.antisymm (Nat.le_of_dvd hpos (Nat.dvd_of_mod_eq_zero hmod))⟩
  case full =>
    intro xs hlt ih ch hch
    have hrest : refrag (xs.drop c) c ≠ [] := refrag_ne_nil hc (by simpa using hlt)
    rw [List.getLast?_cons_of_ne_nil hrest] at hch
    obtain ⟨hpos, hle, hfull⟩ := ih ch hch
    exact ⟨hpos, hle, fun hmod => hfull (by rwa [List.length_drop, ← Nat.mod_eq_sub_mod hlt.le])⟩

theorem length_refrag {c : Nat} (hc : 1 ≤ c) (xs : Bytes) : (refrag xs c).length = (xs.length + c - 1) / c := by
  refine refrag_induction (P := fun xs chs => chs.length = (xs.length + c - 1) / c) hc ?nil ?final ?full xs
  case nil => exact (Nat.div_eq_of_lt (by rw [List.length_nil]; omega)).symm
  case final =>
    intro xs hne hle
    have hpos := List.length_pos_of_ne_nil hne
    exact (Nat.div_eq_of_lt_le (by rw [List.length_singleton]; omega) (by rw [List.length_singleton]; omega)).symm
  case full =>
    intro xs hlt ih
    have hdrop : xs.length + c - 1 = (xs.drop c).length + c - 1 + c := by rw [List.length_drop]; omega
    rw [List.length_cons, ih, hdrop, Nat.add_div_right _ hc]

/-- Settles O41: the laws, each by induction along R150's recursion. -/
theorem refragLaws : Obligations.RefragLaws := fun xs c hc =>
  ⟨flatten_refrag hc xs, length_of_mem_dropLast_refrag hc xs, length_getLast?_refrag hc xs, ne_nil_of_mem_refrag hc xs,
    length_refrag hc xs, refrag_nil c⟩

/-! ### The commands, one by one -/

/-- What a run of refragmenter commands leaves: other refragmenter registers, and further responses. -/
def State.afterRf (s : State) (v : Rf) (rs : List Response) : State := { s with rf := v, resps := s.resps ++ rs }

theorem State.afterRf_afterRf (s : State) (v v' : Rf) (rs rs' : List Response) :
    (s.afterRf v rs).afterRf v' rs' = s.afterRf v' (rs ++ rs') := by
  simp [State.afterRf]

theorem respond_withRf (q : Reply) (s : State) (v : Rf) : respond q (s.withRf v) = .next (s.afterRf v [packReply q]) := rfl

theorem respond_ok_withRf (s : State) (v : Rf) : respond { st := .ok } (s.withRf v) = .next (s.afterRf v [⟨0, []⟩]) :=
  respond_ok (s.withRf v)

/-- A raised status leaves the refragmenter as it was. -/
theorem raise_afterRf (st : Status) (s : State) :
    raise st s = .next (s.afterRf s.rf [⟨(statusCode st).setWidth 64, []⟩]) := by
  rw [← packReply_status]
  rfl

theorem exec_rfStart_zero (s : State) : exec (.rfStart 0) s = .next (s.afterRf s.rf [⟨0x10, []⟩]) :=
  raise_afterRf .invalidConfiguration s

theorem exec_rfStart {n : BitVec 32} (hn : n ≠ 0) (s : State) :
    exec (.rfStart n) s = .next (s.afterRf ⟨.opened, n, []⟩ [⟨0, []⟩]) := by
  rw [exec, execRfStart, if_neg hn, respond_ok_withRf]

theorem exec_rfPush_of_not_opened {s : State} (hphase : s.rf.phase ≠ .opened) (d : Bytes) :
    exec (.rfPush d) s = .next (s.afterRf s.rf [⟨0x22, []⟩]) := by
  rw [exec, execRfPush, if_pos hphase, raise_afterRf]
  rfl

theorem exec_rfPush_of_full {s : State} {d : Bytes} (hphase : s.rf.phase = .opened)
    (hcap : admits s.params.rfCap (s.rf.q.length + d.length) = false) :
    exec (.rfPush d) s = .next (s.afterRf s.rf [⟨0x14, []⟩]) := by
  rw [exec, execRfPush, if_neg (not_not.mpr hphase), if_pos (by simp [hcap]), raise_afterRf]
  rfl

theorem exec_rfPush {s : State} {d : Bytes} (hphase : s.rf.phase = .opened)
    (hcap : admits s.params.rfCap (s.rf.q.length + d.length) = true) :
    exec (.rfPush d) s = .next (s.afterRf { s.rf with q := s.rf.q ++ d } [⟨0, []⟩]) := by
  rw [exec, execRfPush, if_neg (not_not.mpr hphase), if_neg (by simp [hcap]), respond_ok_withRf]

theorem exec_rfEnd {s : State} (hphase : s.rf.phase = .opened) :
    exec .rfEnd s = .next (s.afterRf { s.rf with phase := .ended } [⟨0, []⟩]) := by
  rw [exec, execRfEnd, if_neg (not_not.mpr hphase), respond_ok_withRf]

theorem exec_rfEnd_of_not_opened {s : State} (hphase : s.rf.phase ≠ .opened) :
    exec .rfEnd s = .next (s.afterRf s.rf [⟨0x22, []⟩]) := by
  rw [exec, execRfEnd, if_pos hphase, raise_afterRf]
  rfl

/-- A chunk length other than 0 is at least 1. -/
theorem one_le_chunkLength {c : BitVec 32} (hc : c ≠ 0) : 1 ≤ c.toNat :=
  Nat.pos_of_ne_zero fun h => hc (BitVec.eq_of_toNat_eq h)

/-- What RF.NEXT answers with a chunk: `RF` is LAST, `RW` the chunk's length (R154). -/
def chunkResponse (last : Byte) (len : BitVec 32) (ch : Bytes) : Response := ⟨responseWord 0x00 0 0 last len, ch⟩

theorem exec_rfNext_of_idle {s : State} (hphase : s.rf.phase = .idle) :
    exec .rfNext s = .next (s.afterRf s.rf [⟨0x22, []⟩]) := by
  simp [exec, execRfNext, hphase, raise_afterRf, statusCode]

theorem packReply_chunk (last : Bool) (len : BitVec 32) (ch : Bytes) :
    packReply { st := .ok, rw := len, rf := resultFlags last false false false, d := ch }
      = chunkResponse (if last then 1 else 0) len ch := by
  cases last <;> rfl

/-- Once a run is begun, a full chunk is drawn where one waits. -/
theorem exec_rfNext_of_le {s : State} (hphase : s.rf.phase ≠ .idle) (hle : s.rf.c.toNat ≤ s.rf.q.length) :
    exec .rfNext s = .next (s.afterRf { s.rf with q := s.rf.q.drop s.rf.c.toNat }
      [chunkResponse (if s.rf.phase = .ended ∧ s.rf.q.length = s.rf.c.toNat then 1 else 0) s.rf.c
        (s.rf.q.take s.rf.c.toNat)]) := by
  have hlast : (s.rf.q.drop s.rf.c.toNat).isEmpty = true ↔ s.rf.q.length = s.rf.c.toNat := by
    rw [List.isEmpty_iff, List.drop_eq_nil_iff]
    omega
  simp only [exec, execRfNext, if_neg hphase, if_pos hle, respond_withRf, packReply_chunk, Bool.and_eq_true,
    decide_eq_true_eq, hlast]

theorem exec_rfNext_final {s : State} (hphase : s.rf.phase = .ended) (hlt : s.rf.q.length < s.rf.c.toNat)
    (hne : s.rf.q ≠ []) :
    exec .rfNext s = .next (s.afterRf { s.rf with q := [] }
      [chunkResponse 1 (BitVec.ofNat 32 s.rf.q.length) s.rf.q]) := by
  have hlast := packReply_chunk true (BitVec.ofNat 32 s.rf.q.length) s.rf.q
  rw [exec, execRfNext, if_neg (by simp [hphase]), if_neg hlt.not_ge, if_pos hphase, if_neg (by simpa using hne),
    respond_withRf, hlast, if_pos rfl]

theorem exec_rfNext_exhausted {s : State} (hphase : s.rf.phase = .ended) (hc : s.rf.c ≠ 0) (hq : s.rf.q = []) :
    exec .rfNext s = .next (s.afterRf s.rf [⟨0x02, []⟩]) := by
  have hpos : s.rf.c.toNat ≠ 0 := Nat.one_le_iff_ne_zero.mp (one_le_chunkLength hc)
  simp [exec, execRfNext, hphase, hq, hpos, raise_afterRf, statusCode]

theorem exec_rfNext_notReady {s : State} (hphase : s.rf.phase = .opened) (hlt : s.rf.q.length < s.rf.c.toNat) :
    exec .rfNext s = .next (s.afterRf s.rf [⟨0x03, []⟩]) := by
  simp [exec, execRfNext, hphase, hlt.not_ge, raise_afterRf, statusCode]

/-- Settles O37: `OPC` 0x40 is RF.START's own, and only a chunk length of 0 is refused. -/
theorem rfStartBeginsARun : Obligations.RfStartBeginsARun := by
  refine ⟨fun _ hopc => decode_of_fieldOpc (mn := .rfStart) hopc, fun n s => ?_⟩
  split
  next hn => exact hn ▸ exec_rfStart_zero s
  next hn => exact exec_rfStart hn s

/-- Settles O38: `OPC` 0x41 is RF.PUSH's own, and it checks the phase before the capacity. -/
theorem rfPushAppendsTheBuffer : Obligations.RfPushAppendsTheBuffer := by
  refine ⟨fun _ hopc => decode_of_fieldOpc (mn := .rfPush) hopc, fun d s => ?_⟩
  split_ifs with hphase hcap
  · exact exec_rfPush_of_not_opened hphase d
  · exact exec_rfPush_of_full (not_not.mp hphase) hcap
  · exact exec_rfPush (not_not.mp hphase) (Bool.not_eq_false _ ▸ hcap)

/-- Settles O39: `OPC` 0x42 is RF.END's own, and it is refused outside OPEN. -/
theorem rfEndEndsTheInput : Obligations.RfEndEndsTheInput := by
  refine ⟨fun _ hopc => decode_of_fieldOpc (mn := .rfEnd) hopc, fun s => ?_⟩
  split
  next hphase => exact exec_rfEnd hphase
  next hphase => exact exec_rfEnd_of_not_opened hphase

/-- Outside IDLE and ENDED a run is open. -/
theorem RfPhase.eq_opened {p : RfPhase} (hidle : p ≠ .idle) (hended : p ≠ .ended) : p = .opened := by
  cases p with
  | idle => exact absurd rfl hidle
  | opened => rfl
  | ended => exact absurd rfl hended

/-- Settles O40: `OPC` 0x43 is RF.NEXT's own. Where no full chunk waits, the chunk length is longer than the queue, so it is
not 0. -/
theorem rfNextDrawsAChunk : Obligations.RfNextDrawsAChunk := by
  refine ⟨fun _ hopc => decode_of_fieldOpc (mn := .rfNext) hopc, fun s => ?_⟩
  by_cases hidle : s.rf.phase = .idle
  · rw [if_pos hidle]
    exact exec_rfNext_of_idle hidle
  rw [if_neg hidle]
  by_cases hle : s.rf.c.toNat ≤ s.rf.q.length
  · rw [if_pos hle]
    exact exec_rfNext_of_le hidle hle
  rw [if_neg hle]
  have hlt := not_le.mp hle
  split_ifs with hfinal hended
  · obtain ⟨hended, hne⟩ := hfinal
    exact exec_rfNext_final hended hlt hne
  · have hq : s.rf.q = [] := not_not.mp fun hne => hfinal ⟨hended, hne⟩
    have hc : s.rf.c ≠ 0 := fun hzero => hle (by simp [hzero])
    exact exec_rfNext_exhausted hended hc hq
  · exact exec_rfNext_notReady (RfPhase.eq_opened hidle hended) hlt

/-! ### A run agrees with `refrag` (R157) -/

/-- The chunks that responses carry, in order. -/
def chunksOf (rs : List Response) : List Bytes := (rs.filter fun r => !r.block.isEmpty).map fun r => r.block

/-- The block that a command of an open run pushes. -/
def pushedBlock : Instr → Bytes
  | .rfPush d => d
  | _ => []

/-- What part of a run does to the bytes still to be emitted, `xs` before it and `ys` after it: unless a capacity was exceeded,
its responses `rs` carry, each with OK, the chunks that `refrag xs c` has in front of `refrag ys c`. -/
def Draws (c : Nat) (xs ys : Bytes) (rs : List Response) : Prop :=
  (∀ r ∈ rs, r.st ≠ 0x14) → refrag xs c = chunksOf rs ++ refrag ys c ∧ ∀ r ∈ rs, r.block ≠ [] → r.st = 0x00

theorem Draws.nil (c : Nat) (xs : Bytes) : Draws c xs xs [] := fun _ => ⟨rfl, nofun⟩

theorem Draws.append {c : Nat} {xs ys zs : Bytes} {rs rs' : List Response} (h : Draws c xs ys rs) (h' : Draws c ys zs rs') :
    Draws c xs zs (rs ++ rs') := by
  intro hcap
  obtain ⟨hleft, hright⟩ := List.forall_mem_append.mp hcap
  obtain ⟨hchunks, hok⟩ := h hleft
  obtain ⟨hchunks', hok'⟩ := h' hright
  refine ⟨?_, List.forall_mem_append.mpr ⟨hok, hok'⟩⟩
  rw [hchunks, hchunks', chunksOf, chunksOf, chunksOf, List.filter_append, List.map_append, List.append_assoc]

/-- A response with no block draws nothing. -/
theorem Draws.word (c : Nat) (xs : Bytes) (w : Word) : Draws c xs xs [⟨w, []⟩] := fun _ =>
  ⟨rfl, List.forall_mem_singleton.mpr fun hne => absurd rfl hne⟩

theorem Draws.capacityExceeded (c : Nat) (xs ys : Bytes) : Draws c xs ys [⟨0x14, []⟩] := fun hcap =>
  absurd rfl (hcap _ (List.mem_singleton_self _))

theorem Draws.chunk {c : Nat} {xs ys ch : Bytes} (last : Byte) (len : BitVec 32) (hne : ch ≠ [])
    (h : refrag xs c = ch :: refrag ys c) : Draws c xs ys [chunkResponse last len ch] := by
  intro _
  obtain ⟨_, hst, _⟩ := responseWordLayout 0x00 0 0 last len ch
  exact ⟨by simp [h, chunksOf, chunkResponse, hne], List.forall_mem_singleton.mpr fun _ => hst⟩

/-- A full chunk of the queue is the next chunk, whatever is pushed later. -/
theorem Draws.full_chunk {c : Nat} {q : Bytes} (last : Byte) (len : BitVec 32) (hc : 1 ≤ c) (hle : c ≤ q.length) (ys : Bytes) :
    Draws c (q ++ ys) (q.drop c ++ ys) [chunkResponse last len (q.take c)] := by
  refine Draws.chunk last len (List.ne_nil_of_length_pos (by rw [List.length_take]; omega)) ?_
  rw [refrag_of_le_length hc (by rw [List.length_append]; omega), List.take_append_of_le_length hle,
    List.drop_append_of_le_length hle]

/-- Two refragmenter runs one after the other. -/
theorem runInstrs_append_afterRf {is js : List Instr} {s : State} {v v' : Rf} {rs rs' : List Response}
    (his : runInstrs is s = .next (s.afterRf v rs))
    (hjs : runInstrs js (s.afterRf v rs) = .next ((s.afterRf v rs).afterRf v' rs')) :
    runInstrs (is ++ js) s = .next (s.afterRf v' (rs ++ rs')) := by
  rw [runInstrs_append his, hjs, State.afterRf_afterRf]

/-- One RF.PUSH or RF.NEXT of an open run, with `ys` to be pushed after it. -/
theorem exec_opened_draws {s : State} {i : Instr} (hi : i = .rfNext ∨ ∃ d, i = .rfPush d) (hphase : s.rf.phase = .opened)
    (hc : s.rf.c ≠ 0) (ys : Bytes) :
    ∃ q r, exec i s = .next (s.afterRf { s.rf with q := q } [r])
      ∧ Draws s.rf.c.toNat (s.rf.q ++ (pushedBlock i ++ ys)) (q ++ ys) [r]
      ∧ q.length ≤ s.rf.q.length + (pushedBlock i).length := by
  have hpos : 1 ≤ s.rf.c.toNat := one_le_chunkLength hc
  obtain rfl | ⟨d, rfl⟩ := hi
  · obtain hle | hlt := le_or_gt s.rf.c.toNat s.rf.q.length
    · exact ⟨_, _, exec_rfNext_of_le (by simp [hphase]) hle, .full_chunk _ _ hpos hle ys, by simp [pushedBlock]⟩
    · exact ⟨_, _, exec_rfNext_notReady hphase hlt, .word _ _ _, Nat.le_add_right _ _⟩
  · cases hcap : admits s.params.rfCap (s.rf.q.length + d.length) with
    | false => exact ⟨_, _, exec_rfPush_of_full hphase hcap, .capacityExceeded _ _ _, Nat.le_add_right _ _⟩
    | true =>
      refine ⟨_, _, exec_rfPush hphase hcap, ?_, List.length_append.le⟩
      rw [← List.append_assoc]
      exact .word _ _ _

/-- An open run draws from the queue it began with and all it pushes. -/
theorem runInstrs_opened_draws {is : List Instr} {s : State} (his : ∀ i ∈ is, i = .rfNext ∨ ∃ d, i = .rfPush d)
    (hphase : s.rf.phase = .opened) (hc : s.rf.c ≠ 0) :
    ∃ q rs, runInstrs is s = .next (s.afterRf { s.rf with q := q } rs)
      ∧ Draws s.rf.c.toNat (s.rf.q ++ is.flatMap pushedBlock) q rs
      ∧ q.length ≤ s.rf.q.length + (is.flatMap pushedBlock).length := by
  induction is generalizing s with
  | nil => exact ⟨s.rf.q, [], by simp [runInstrs, State.afterRf], by simpa using Draws.nil _ _, Nat.le_add_right _ _⟩
  | cons i is ih =>
    obtain ⟨hi, his⟩ := List.forall_mem_cons.mp his
    obtain ⟨q, r, hexec, hdraw, hlen⟩ := exec_opened_draws hi hphase hc (is.flatMap pushedBlock)
    obtain ⟨q', rs, hrun, hdraws, hlen'⟩ := ih (s := s.afterRf { s.rf with q := q } [r]) his hphase hc
    refine ⟨q', [r] ++ rs, runInstrs_append_afterRf (runInstrs_one hexec) hrun, hdraw.append hdraws, hlen'.trans ?_⟩
    simp only [State.afterRf, List.flatMap_cons, List.length_append]
    omega

/-- One RF.NEXT of an ended run draws a chunk's length, or all that is left. -/
theorem exec_rfNext_ended_draws {s : State} (hphase : s.rf.phase = .ended) (hc : s.rf.c ≠ 0) :
    ∃ r, exec .rfNext s = .next (s.afterRf { s.rf with q := s.rf.q.drop s.rf.c.toNat } [r])
      ∧ Draws s.rf.c.toNat s.rf.q (s.rf.q.drop s.rf.c.toNat) [r] := by
  have hpos : 1 ≤ s.rf.c.toNat := one_le_chunkLength hc
  obtain hle | hlt := le_or_gt s.rf.c.toNat s.rf.q.length
  · exact ⟨_, exec_rfNext_of_le (by simp [hphase]) hle, by simpa using Draws.full_chunk _ _ hpos hle []⟩
  · rw [List.drop_of_length_le hlt.le]
    by_cases hq : s.rf.q = []
    · exact ⟨_, by rw [exec_rfNext_exhausted hphase hc hq, ← hq], by rw [hq]; exact .word _ _ _⟩
    · exact ⟨_, exec_rfNext_final hphase hlt hq, .chunk _ _ hq (refrag_of_length_le hpos hq hlt.le)⟩

/-- RF.NEXT as often as there are bytes, or more often, draws all that an ended run holds. -/
theorem runInstrs_ended_draws {k : Nat} {s : State} (hphase : s.rf.phase = .ended) (hc : s.rf.c ≠ 0)
    (hk : s.rf.q.length ≤ k) :
    ∃ rs, runInstrs (List.replicate k .rfNext) s = .next (s.afterRf { s.rf with q := [] } rs)
      ∧ Draws s.rf.c.toNat s.rf.q [] rs := by
  induction k generalizing s with
  | zero =>
    have hq : s.rf.q = [] := List.eq_nil_of_length_eq_zero (Nat.le_zero.mp hk)
    exact ⟨[], by simp [runInstrs, State.afterRf, ← hq], hq ▸ .nil _ _⟩
  | succ k ih =>
    have hpos : 1 ≤ s.rf.c.toNat := one_le_chunkLength hc
    obtain ⟨r, hexec, hdraw⟩ := exec_rfNext_ended_draws hphase hc
    obtain ⟨rs, hrun, hdraws⟩ := ih (s := s.afterRf { s.rf with q := s.rf.q.drop s.rf.c.toNat } [r]) hphase hc
      (by simp only [State.afterRf, List.length_drop]; omega)
    exact ⟨[r] ++ rs, runInstrs_append_afterRf (runInstrs_one hexec) hrun, hdraw.append hdraws⟩

/-- Settles O42: the open part of the run and the ended part draw, one after the other, all that was pushed; the last RF.NEXT
finds nothing left. -/
theorem refragmenterRunAgreesWithRefrag : Obligations.RefragmenterRunAgreesWithRefrag := by
  intro s c is k xs hc his hxs hk
  have hpushed : xs = is.flatMap pushedBlock := hxs.trans (List.flatMap_def ..).symm
  obtain ⟨j, rfl⟩ := Nat.exists_eq_add_of_lt hk
  have hstart := runInstrs_one (exec_rfStart hc s)
  obtain ⟨q, rs, hopen, hdraws, hlen⟩ := runInstrs_opened_draws (s := s.afterRf ⟨.opened, c, []⟩ [⟨0, []⟩]) his rfl hc
  have hopened := runInstrs_append_afterRf hstart hopen
  have hended := runInstrs_append_afterRf hopened (runInstrs_one (exec_rfEnd rfl))
  obtain ⟨rs', hdrain, hdraws'⟩ := runInstrs_ended_draws (k := xs.length + j)
    (s := s.afterRf ⟨.ended, c, q⟩ ([⟨0, []⟩] ++ rs ++ [⟨0, []⟩])) rfl hc
    ((hlen.trans (by simp [hpushed, State.afterRf])).trans (Nat.le_add_right _ j))
  have hdrained := runInstrs_append_afterRf hended hdrain
  have hdone := runInstrs_append_afterRf hdrained (runInstrs_one (exec_rfNext_exhausted rfl hc rfl))
  have hall : Draws c.toNat xs [] ([⟨0, []⟩] ++ rs ++ [⟨0, []⟩] ++ rs' ++ [⟨0x02, []⟩]) :=
    hpushed ▸ ((((Draws.word _ _ 0).append hdraws).append (.word _ _ 0)).append hdraws').append (.word _ _ 0x02)
  refine ⟨_, _, by rw [List.replicate_succ', ← List.append_assoc]; exact hdone, rfl, fun hcap => ?_⟩
  obtain ⟨hchunks, hok⟩ := hall hcap
  exact ⟨by rw [hchunks, refrag_nil, List.append_nil]; rfl, hok, List.getLast?_concat⟩

end Sys2Proof.Machine
end

section
/-! PROOFS. The frame function (spec/45_serializer.md R170 to R173) and the serializer's commands (R175 to R179). The frames of a
multi-frame stream are its chunks: frame `k` begins at byte `k * M`, and there is one exactly where that byte is in the stream. A
single frame may be empty, so its laws are apart. -/

namespace Sys2Proof.Machine

/-! ### The frames' data (R172) -/

/-- There is a chunk `k` exactly where its first byte is in the sequence. -/
theorem lt_ceilDiv_iff {a b k : Nat} (hb : 1 ≤ b) : k < ceilDiv a b ↔ k * b < a := by
  rw [ceilDiv, ← Nat.succ_le_iff, Nat.le_div_iff_mul_le hb, Nat.succ_mul]
  omega

theorem length_frameData (xs : Bytes) (m k : Nat) : (frameData xs m k).length = min m (xs.length - k * m) := by
  rw [frameData, List.length_take, List.length_drop]

theorem frameData_zero (xs : Bytes) (m : Nat) : frameData xs m 0 = xs.take m := by
  rw [frameData, Nat.zero_mul, List.drop_zero]

/-- What fits one frame is the data of frame 0. -/
theorem frameData_zero_of_le {xs : Bytes} {m : Nat} (hle : xs.length ≤ m) : frameData xs m 0 = xs := by
  rw [frameData_zero, List.take_of_length_le hle]

/-- Behind frame 0, the frames are those of the rest of the stream. -/
theorem frameData_succ (xs : Bytes) (m k : Nat) : frameData xs m (k + 1) = frameData (xs.drop m) m k := by
  rw [frameData, frameData, List.drop_drop, Nat.succ_mul, Nat.add_comm]

theorem map_frameData_range_length_refrag {m : Nat} (hm : 1 ≤ m) (xs : Bytes) :
    (List.range (refrag xs m).length).map (frameData xs m) = refrag xs m := by
  refine refrag_induction (P := fun xs chs => (List.range chs.length).map (frameData xs m) = chs) hm rfl ?final ?full xs
  case final => exact fun xs _ hle => congrArg (fun ch => [ch]) (frameData_zero_of_le hle)
  case full =>
    intro xs _ ih
    have hrest : (frameData xs m ∘ Nat.succ) = frameData (xs.drop m) m := funext (frameData_succ xs m)
    rw [List.length_cons, List.range_succ_eq_map, List.map_cons, List.map_map, hrest, ih, frameData_zero]

/-- As many frames as a stream has chunks carry `refrag` of it (R172). -/
theorem map_frameData_eq_refrag {m : Nat} (hm : 1 ≤ m) (xs : Bytes) :
    (List.range (ceilDiv xs.length m)).map (frameData xs m) = refrag xs m := by
  rw [ceilDiv, ← length_refrag hm, map_frameData_range_length_refrag hm]

/-- Every chunk but the last is full. -/
theorem length_frameData_of_succ_lt {xs : Bytes} {m k : Nat} (hm : 1 ≤ m) (hk : k + 1 < ceilDiv xs.length m) :
    (frameData xs m k).length = m := by
  have hnext : (k + 1) * m < xs.length := (lt_ceilDiv_iff hm).mp hk
  rw [Nat.succ_mul] at hnext
  rw [length_frameData]
  omega

theorem one_le_length_frameData {xs : Bytes} {m k : Nat} (hm : 1 ≤ m) (hk : k < ceilDiv xs.length m) :
    1 ≤ (frameData xs m k).length := by
  have hfirst : k * m < xs.length := (lt_ceilDiv_iff hm).mp hk
  rw [length_frameData]
  omega

/-! ### The stream (R170, R171) -/

theorem txStream_of_le {p : Bytes} {m : Nat} (h : p.length ≤ m) :
    txStream p m = ⟨p ++ rep padByte (requiredPadding p.length m), 1, requiredPadding p.length m, true⟩ :=
  if_pos h

/-- The stream of a multi-frame transfer: payload, padding and CRC (R171). -/
def multiStream (p : Bytes) (m : Nat) : Bytes :=
  p ++ rep padByte (multiPad p.length m) ++ digest (crc16ccitt (p ++ rep padByte (multiPad p.length m)))

theorem length_multiStream (p : Bytes) (m : Nat) : (multiStream p m).length = p.length + multiPad p.length m + 2 := by
  simp [multiStream, Nat.add_assoc]

theorem txStream_of_lt {p : Bytes} {m : Nat} (h : m < p.length) :
    txStream p m = ⟨multiStream p m, ceilDiv (multiStream p m).length m, multiPad p.length m, false⟩ :=
  if_neg h.not_ge

/-- A multi-frame stream is longer than one frame, for the payload alone is. -/
theorem two_le_ceilDiv_multiStream {p : Bytes} {m : Nat} (hm : 1 ≤ m) (h : m < p.length) :
    2 ≤ ceilDiv (multiStream p m).length m := by
  refine (lt_ceilDiv_iff hm).mpr ?_
  rw [length_multiStream]
  omega

theorem multiPad_eq_zero (len : Nat) {m : Nat} (hm : m ≤ 9) : multiPad len m = 0 := by
  simp only [multiPad]
  split
  · rfl
  · exact requiredPadding_eq_zero _ hm

/-- No padding with at most 9 data bytes a frame, single-frame or multi-frame. -/
theorem pad_txStream_eq_zero (p : Bytes) {m : Nat} (hm : m ≤ 9) : (txStream p m).pad = 0 := by
  obtain hle | hlt := le_or_gt p.length m
  · rw [txStream_of_le hle]
    exact requiredPadding_eq_zero _ hm
  · rw [txStream_of_lt hlt]
    exact multiPad_eq_zero _ hm

/-! ### The wire frames (R172, R173) -/

theorem length_wireFrames (p : Bytes) (m tid : Nat) : (wireFrames p m tid).length = (txStream p m).frames := by
  simp [wireFrames]

theorem getElem?_wireFrames {p : Bytes} {m k : Nat} (tid : Nat) (hk : k < (txStream p m).frames) :
    (wireFrames p m tid)[k]?
      = some (frameData (txStream p m).bytes m k ++ [frameTail (txStream p m).frames tid k]) := by
  simp [wireFrames, wireFrame, hk]

/-- The one frame of a single-frame transfer carries the whole stream, with SOT, EOT and TGL set (R173). -/
theorem wireFrames_of_le {p : Bytes} {m : Nat} (tid : Nat) (h : p.length ≤ m) :
    wireFrames p m tid = [(txStream p m).bytes ++ [BitVec.ofNat 8 (224 + tid % 32)]] := by
  have hfit : (txStream p m).bytes.length ≤ m := by
    simpa [txStream_of_le h] using add_requiredPadding_le h
  have hframes : (txStream p m).frames = 1 := by rw [txStream_of_le h]
  have htail : frameTail 1 tid 0 = BitVec.ofNat 8 (224 + tid % 32) := tailEncode_eq_ofNat true true true tid
  rw [wireFrames, hframes, ← htail]
  exact congrArg (fun d => [d ++ [frameTail 1 tid 0]]) (frameData_zero_of_le hfit)

/-- The fields of a tail byte are the ones it was encoded from. -/
theorem tailEncode_fields (sot eot tgl : Bool) (tid : Nat) :
    (tailEncode sot eot tgl tid).getLsbD 7 = sot ∧ (tailEncode sot eot tgl tid).getLsbD 6 = eot
      ∧ (tailEncode sot eot tgl tid).getLsbD 5 = tgl ∧ (tailEncode sot eot tgl tid).toNat % 32 = tid % 32 := by
  have hfields := tailDecode_tailEncode sot eot tgl tid
  exact ⟨congrArg Tail.sot hfields, congrArg Tail.eot hfields, congrArg Tail.tgl hfields,
    by simpa [tailDecode] using congrArg (fun u => u.tid.toNat) hfields⟩

/-- Settles O48: a single-frame stream fits frame 0, and a multi-frame stream's frames are its chunks. -/
theorem frameFunctionLaws : Obligations.FrameFunctionLaws := by
  rintro p m tid t hm rfl
  refine ⟨fun hle => ?single, fun hlt => ?multi, pad_txStream_eq_zero p, fun k => ?bound, length_wireFrames p m tid,
    fun k hk => ?wire⟩
  case single =>
    have hwire := wireFrames_of_le tid hle
    rw [txStream_of_le hle] at hwire ⊢
    exact ⟨rfl, rfl, rfl, rfl, hwire⟩
  case multi =>
    have htwo := two_le_ceilDiv_multiStream hm hlt
    rw [txStream_of_lt hlt]
    exact ⟨rfl, by rw [length_multiStream, ceilDiv], htwo, rfl, rfl, fun k => length_frameData_of_succ_lt hm,
      one_le_length_frameData hm (Nat.sub_lt (Nat.zero_lt_of_lt htwo) Nat.one_pos), map_frameData_eq_refrag hm _⟩
  case bound => exact (length_frameData _ m k).trans_le (min_le_left _ _)
  case wire =>
    have hlast : k = (txStream p m).frames - 1 ↔ k + 1 = (txStream p m).frames := by omega
    refine ⟨_, getElem?_wireFrames tid hk, ?_⟩
    simpa only [frameTail, hlast] using tailEncode_fields ..

/-! ### The commands' refusals -/

theorem exec_serStart_zero (tid : Byte) (lb : Bool) (ident : BitVec 32) (s : State) :
    exec (.serStart 0 tid lb ident) s = .next (s.afterSer s.ser [⟨0x10, []⟩]) :=
  raise_afterSer .invalidConfiguration s

theorem exec_serFrag_of_not_collect {s : State} (hphase : s.ser.phase ≠ .collect) (d : Bytes) :
    exec (.serFrag d) s = .next (s.afterSer s.ser [⟨0x22, []⟩]) := by
  rw [exec, execSerFrag, if_pos hphase, raise_afterSer]
  rfl

theorem exec_serFrag_of_full {s : State} {d : Bytes} (hphase : s.ser.phase = .collect)
    (hcap : admits s.params.txCap (s.ser.payload.length + d.length) = false) :
    exec (.serFrag d) s = .next (s.afterSer s.ser [⟨0x14, []⟩]) := by
  rw [exec, execSerFrag, if_neg (not_not.mpr hphase), if_pos (by simp [hcap]), raise_afterSer]
  rfl

theorem exec_serSeal_of_not_collect {s : State} (hphase : s.ser.phase ≠ .collect) :
    exec .serSeal s = .next (s.afterSer s.ser [⟨0x22, []⟩]) := by
  rw [exec, execSerSeal, if_pos hphase, raise_afterSer]
  rfl

theorem exec_serNext_of_not_emit {s : State} (hphase : s.ser.phase ≠ .emit) :
    exec .serNext s = .next (s.afterSer s.ser [⟨0x22, []⟩]) := by
  rw [exec, execSerNext, if_pos hphase, raise_afterSer]
  rfl

/-! ### The commands -/

/-- SER.NEXT at any cursor but the count's, past it too, where `exec_serNext` does not reach. -/
theorem exec_serNext_of_ne {s : State} (hphase : s.ser.phase = .emit) (hk : s.ser.k ≠ s.ser.n) :
    exec .serNext s = .next (s.afterSer { s.ser with k := s.ser.k + 1 }
      [⟨responseWord 0x00 (frameTail s.ser.n s.ser.tid.toNat s.ser.k)
          (BitVec.ofNat 8 (frameData s.ser.stream s.ser.m.toNat s.ser.k).length)
          (BitVec.ofNat 8 ((decide (s.ser.k = 0)).toNat + 2 * (decide (s.ser.k = s.ser.n - 1)).toNat
            + 4 * (decide (s.ser.k % 2 = 0)).toNat + 8 * s.ser.lb.toNat)) s.ser.ident,
        wireFrame s.ser.stream s.ser.m.toNat s.ser.n s.ser.tid.toNat s.ser.k⟩]) := by
  rw [← resultFlags_eq_ofNat, exec, execSerNext, if_neg (not_not.mpr hphase), if_neg hk]
  rfl

/-- Settles O43: `OPC` 0x50 is SER.START's own, and only a frame length of 0 is refused, whatever the phase. -/
theorem serStartOpensATransfer : Obligations.SerStartOpensATransfer := by
  refine ⟨fun c hopc => ?_, fun m tid lb ident s => ?_⟩
  · rw [decode_of_fieldOpc (mn := .serStart) hopc, readOperands, flagF_eq_getLsbD c.word (by decide : 0 < 8)]
    rfl
  · split
    next hm => exact hm ▸ exec_serStart_zero tid lb ident s
    next hm => exact exec_serStart hm tid lb ident s

/-- Settles O44: `OPC` 0x51 is SER.FRAG's own, and it checks the phase before the capacity. -/
theorem serFragAppendsTheFragment : Obligations.SerFragAppendsTheFragment := by
  refine ⟨fun _ hopc => decode_of_fieldOpc (mn := .serFrag) hopc, fun d s => ?_⟩
  split_ifs with hphase hcap
  · exact exec_serFrag_of_not_collect hphase d
  · exact exec_serFrag_of_full (not_not.mp hphase) hcap
  · exact exec_serFrag (not_not.mp hphase) (Bool.not_eq_false _ ▸ hcap)

/-- Settles O45: `OPC` 0x52 is SER.SEAL's own, and it is refused outside COLLECT. -/
theorem serSealFixesTheFrames : Obligations.SerSealFixesTheFrames := by
  refine ⟨fun _ hopc => decode_of_fieldOpc (mn := .serSeal) hopc, fun s => ?_⟩
  split_ifs with hphase
  · exact exec_serSeal_of_not_collect hphase
  · exact exec_serSeal (not_not.mp hphase) rfl

/-- Settles O46: `OPC` 0x53 is SER.NEXT's own, and it checks the phase before the cursor. -/
theorem serNextDrawsAFrame : Obligations.SerNextDrawsAFrame := by
  refine ⟨fun _ hopc => decode_of_fieldOpc (mn := .serNext) hopc, ?_⟩
  rintro s _ _ rfl rfl
  split_ifs with hphase hk
  · exact exec_serNext_of_not_emit hphase
  · exact exec_serNext_exhausted (not_not.mp hphase) hk
  · exact exec_serNext_of_ne (not_not.mp hphase) hk

/-- Settles O47: `OPC` 0x54 is SER.ABORT's own, and it asks for no phase. -/
theorem serAbortDiscardsTheTransfer : Obligations.SerAbortDiscardsTheTransfer :=
  ⟨fun _ hopc => decode_of_fieldOpc (mn := .serAbort) hopc, fun s => respond_ok_withSer s _⟩

end Sys2Proof.Machine
end

section
/-! PROOFS. The reassembler's commands (spec/46_reassembler.md R200 to R208, R210 to R213). What one frame does to a slot is said
once for each branch of R201, in the order of R236; RX.FEED on a slot of the file applies it. -/

namespace Sys2Proof.Machine

/-! ### A start-of-transfer frame against a slot (R202, R203, R207) -/

/-- Nothing of what the slot held enters the outcome (R212). -/
theorem feedSlot_eq_of_sot {t : Tail} (hsot : t.sot = true) (cap : Capacity) (r r' : RxSlot) (d : Bytes) :
    feedSlot cap r d t = feedSlot cap r' d t := by
  rw [feedSlot, feedSlot, if_pos hsot, if_pos hsot]
  rfl

/-- With EOT too the frame is a whole transfer, and its data is delivered. -/
theorem feedSlot_single {t : Tail} (hsot : t.sot = true) (heot : t.eot = true) (cap : Capacity) (r : RxSlot) (d : Bytes) :
    feedSlot cap r d t
      = (⟨.idle, t.tid, !t.tgl, []⟩, { st := .delivered, ra := t.tid.setWidth 8, rw := BitVec.ofNat 32 d.length, d := d }) := by
  rw [feedSlot, if_pos hsot, feedStart, if_pos heot]
  rfl

/-- The transfer id and the toggle are written before the capacity check (log 6). -/
theorem feedSlot_start_full {cap : Capacity} {d : Bytes} {t : Tail} (hsot : t.sot = true) (heot : t.eot = false)
    (hcap : admits cap d.length = false) (r : RxSlot) :
    feedSlot cap r d t = (⟨.idle, t.tid, !t.tgl, []⟩, { st := .capacityExceeded }) := by
  rw [feedSlot, if_pos hsot, feedStart, if_neg (by simp [heot]), if_pos (by simp [hcap])]
  rfl

theorem feedSlot_start {cap : Capacity} {d : Bytes} {t : Tail} (hsot : t.sot = true) (heot : t.eot = false)
    (hcap : admits cap d.length = true) (r : RxSlot) :
    feedSlot cap r d t = (⟨.accumulating, t.tid, !t.tgl, d⟩, { st := .ok }) := by
  rw [feedSlot, if_pos hsot, feedStart, if_neg (by simp [heot]), if_neg (by simp [hcap])]

/-! ### A continuation frame against a slot (R204, R205, R207) -/

theorem feedSlot_orphan {r : RxSlot} {t : Tail} (hsot : t.sot = false) (hidle : r.phase = .idle) (cap : Capacity) (d : Bytes) :
    feedSlot cap r d t = (r, { st := .orphan }) := by
  rw [feedSlot, if_neg (by simp [hsot]), feedContinue, if_pos hidle]

theorem feedSlot_other_tid {r : RxSlot} {t : Tail} (hsot : t.sot = false) (hphase : r.phase ≠ .idle) (htid : t.tid ≠ r.tid)
    (cap : Capacity) (d : Bytes) : feedSlot cap r d t = (r.idled, { st := .transferIdMismatch }) := by
  rw [feedSlot, if_neg (by simp [hsot]), feedContinue, if_neg hphase, if_pos htid]

theorem feedSlot_other_toggle {r : RxSlot} {t : Tail} (hsot : t.sot = false) (hphase : r.phase ≠ .idle) (htid : t.tid = r.tid)
    (htgl : t.tgl ≠ r.exp) (cap : Capacity) (d : Bytes) : feedSlot cap r d t = (r.idled, { st := .toggleViolation }) := by
  rw [feedSlot, if_neg (by simp [hsot]), feedContinue, if_neg hphase, if_neg (not_not.mpr htid), if_pos htgl]

/-- The frame `t` is a continuation of the reception in `r`: it passes the three checks of R204. -/
structure Tail.Continues (t : Tail) (r : RxSlot) : Prop where
  sot : t.sot = false
  phase : r.phase = .accumulating
  tid : t.tid = r.tid
  tgl : t.tgl = r.exp

section
variable {cap : Capacity} {r : RxSlot} {d : Bytes} {t : Tail}

/-- Behind the checks of R204 stand the capacity check and then EOT. -/
theorem Tail.Continues.feedSlot_eq (h : t.Continues r) :
    feedSlot cap r d t = if !admits cap (r.buf.length + d.length) then (r.idled, { st := .capacityExceeded })
      else if t.eot then feedComplete ⟨.accumulating, r.tid, !r.exp, r.buf ++ d⟩ (r.buf ++ d) t
      else (⟨.accumulating, r.tid, !r.exp, r.buf ++ d⟩, { st := .ok }) := by
  rw [feedSlot, if_neg (by simp [h.sot]), feedContinue, if_neg (by simp [h.phase]), if_neg (not_not.mpr h.tid),
    if_neg (not_not.mpr h.tgl), h.phase]

theorem Tail.Continues.feedSlot_full (h : t.Continues r) (hcap : admits cap (r.buf.length + d.length) = false) :
    feedSlot cap r d t = (r.idled, { st := .capacityExceeded }) := by
  rw [h.feedSlot_eq, if_pos (by simp [hcap])]

theorem Tail.Continues.feedSlot_accepted (h : t.Continues r) (hcap : admits cap (r.buf.length + d.length) = true)
    (heot : t.eot = false) :
    feedSlot cap r d t = (⟨.accumulating, r.tid, !r.exp, r.buf ++ d⟩, { st := .ok }) := by
  rw [h.feedSlot_eq, if_neg (by simp [hcap]), if_neg (by simp [heot])]

theorem Tail.Continues.feedSlot_last (h : t.Continues r) (hcap : admits cap (r.buf.length + d.length) = true)
    (heot : t.eot = true) :
    feedSlot cap r d t = feedComplete ⟨.accumulating, r.tid, !r.exp, r.buf ++ d⟩ (r.buf ++ d) t := by
  rw [h.feedSlot_eq, if_neg (by simp [hcap]), if_pos heot]

end

/-! ### The completion (R206, R208) -/

theorem feedComplete_of_not_verifies {b : Bytes} (h : crcVerifies b = false) (r : RxSlot) (t : Tail) :
    feedComplete r b t = (r.idled, { st := .crcMismatch }) := by
  rw [feedComplete, if_neg (by simp [h])]

/-- All but the two CRC bytes of a verifying buffer is delivered. -/
theorem feedComplete_of_verifies {q : Bytes} {hi lo : Byte} (h : crcVerifies (q ++ [hi, lo]) = true) (r : RxSlot) (t : Tail) :
    feedComplete r (q ++ [hi, lo]) t
      = (r.idled, { st := .delivered, ra := t.tid.setWidth 8, rf := resultFlags true false false false,
                    rw := BitVec.ofNat 32 q.length, d := q }) := by
  have hrest : (q ++ [hi, lo]).take ((q ++ [hi, lo]).length - 2) = q := by simp
  rw [feedComplete, if_pos h, hrest]

/-- A buffer of fewer than two bytes holds no CRC (R208). -/
theorem crcVerifies_eq_false_of_short {b : Bytes} (h : b.length < 2) : crcVerifies b = false := by
  rw [← Bool.not_eq_true, crcVerifies_iff]
  omega

/-- The two bytes as a number, the high byte first (R206). -/
theorem toNat_readDigest (hi lo : Byte) : (readDigest hi lo).toNat = hi.toNat * 256 + lo.toNat := by
  have happend : readDigest hi lo = hi ++ lo := by
    rw [readDigest, BitVec.append_def, BitVec.shiftLeftZeroExtend_eq, BitVec.setWidth'_eq]
  rw [happend]
  exact toNat_append_eq_add hi lo

theorem crcVerifies_append_pair_iff (q : Bytes) (hi lo : Byte) :
    crcVerifies (q ++ [hi, lo]) = true ↔ (crc16ccitt q).toNat = hi.toNat * 256 + lo.toNat := by
  rw [crcVerifies_append_pair, decide_eq_true_iff, ← toNat_readDigest, BitVec.toNat_inj]

/-! ### The state after the commands -/

/-- What a run of the reassembler's commands on slot `i` leaves: other contents of that slot, and further responses. -/
def State.afterRx (s : State) (i : Nat) (v : RxSlot) (rs : List Response) : State :=
  { s with rx := s.rx.set i v, resps := s.resps ++ rs }

theorem State.afterRx_afterRx (s : State) (i : Nat) (v v' : RxSlot) (rs rs' : List Response) :
    (s.afterRx i v rs).afterRx i v' rs' = s.afterRx i v' (rs ++ rs') := by
  simp [State.afterRx]

/-- What the slot held before is gone. -/
theorem State.afterRx_withSlot (s : State) (i : Nat) (v v' : RxSlot) (rs : List Response) :
    (s.withSlot i v).afterRx i v' rs = s.afterRx i v' rs := by
  simp [State.afterRx, State.withSlot]

/-- Writing back what the slot holds changes nothing but the responses. -/
theorem State.afterRx_slot (s : State) (i : Nat) (rs : List Response) :
    s.afterRx i (s.slot i) rs = { s with resps := s.resps ++ rs } :=
  congrArg (fun u : State => { u with resps := s.resps ++ rs }) (s.withSlot_slot i)

theorem State.slot_afterRx {s : State} {i : Nat} (h : i < s.rx.length) (v : RxSlot) (rs : List Response) :
    (s.afterRx i v rs).slot i = v :=
  s.slot_withSlot_self i v h

theorem State.slot_eq_of_getElem? {s : State} {i : Nat} {r : RxSlot} (h : s.rx[i]? = some r) : s.slot i = r := by
  simp [State.slot, List.getD_eq_getElem?_getD, h]

theorem respond_withSlot (q : Reply) (s : State) (i : Nat) (v : RxSlot) :
    respond q (s.withSlot i v) = .next (s.afterRx i v [packReply q]) := rfl

/-- A status alone fills no field of the response but `ST` (R14). -/
theorem raise_status (st : Status) (s : State) :
    raise st s = .next { s with resps := s.resps ++ [⟨(statusCode st).setWidth 64, []⟩] } := by
  rw [← packReply_status]
  rfl

/-- The response to a delivery (R201): the transfer id, whether a CRC was checked, the length, and the data. -/
theorem packReply_delivered (tid : BitVec 5) (multi : Bool) (q : Bytes) :
    packReply { st := .delivered, ra := tid.setWidth 8, rf := resultFlags multi false false false,
                rw := BitVec.ofNat 32 q.length, d := q }
      = ⟨responseWord 0x01 (BitVec.ofNat 8 tid.toNat) 0 (BitVec.ofNat 8 multi.toNat) (BitVec.ofNat 32 q.length), q⟩ := by
  rw [resultFlags_eq_ofNat, BitVec.ofNat_toNat]
  rfl

/-! ### RX.FEED -/

theorem exec_rxFeed_of_badSlot {s : State} {a : Byte} (ha : s.params.nsess ≤ a.toNat) (w : Bytes) :
    exec (.rxFeed a w) s = raise .badOperand s := by
  simp only [exec, execRxFeed, slotOperand_eq_none.mpr ha]

theorem exec_rxFeed_nil {s : State} {a : Byte} (ha : a.toNat < s.params.nsess) :
    exec (.rxFeed a []) s = raise .emptyFrame s := by
  simp only [exec, execRxFeed, slotOperand_eq_some.mpr ⟨rfl, ha⟩, splitFrame_eq_none.mpr rfl]

section
variable {s : State} {a : Byte} {d : Bytes} {t : Byte} {r v : RxSlot}

/-- A frame on a slot of the file leaves and answers what `feedSlot` says. -/
theorem exec_rxFeed {q : Reply} (ha : a.toNat < s.params.nsess) (hr : s.slot a.toNat = r)
    (hout : feedSlot s.params.rxCap r d (tailDecode t) = (v, q)) :
    exec (.rxFeed a (d ++ [t])) s = .next (s.afterRx a.toNat v [packReply q]) := by
  simp only [exec, execRxFeed, slotOperand_eq_some.mpr ⟨rfl, ha⟩, splitFrame_append, hr, hout, respond_withSlot]

theorem exec_rxFeed_status {st : Status} (ha : a.toNat < s.params.nsess) (hr : s.slot a.toNat = r)
    (hout : feedSlot s.params.rxCap r d (tailDecode t) = (v, { st := st })) :
    exec (.rxFeed a (d ++ [t])) s = .next (s.afterRx a.toNat v [⟨(statusCode st).setWidth 64, []⟩]) := by
  rw [exec_rxFeed ha hr hout, packReply_status]

/-- A single-frame transfer is delivered whatever the slot held. -/
theorem exec_rxFeed_single (ha : a.toNat < s.params.nsess) (hsot : t.getLsbD 7 = true) (heot : t.getLsbD 6 = true) :
    exec (.rxFeed a (d ++ [t])) s = .next (s.afterRx a.toNat ⟨.idle, t.extractLsb' 0 5, !t.getLsbD 5, []⟩
      [⟨responseWord 0x01 (BitVec.ofNat 8 (t.toNat % 32)) 0 0 (BitVec.ofNat 32 d.length), d⟩]) := by
  have htid : t.toNat % 32 = (t.extractLsb' 0 5).toNat := by simp
  rw [htid, exec_rxFeed ha rfl (feedSlot_single hsot heot ..)]
  exact congrArg (fun x => Host.Outcome.next (s.afterRx a.toNat _ [x])) (packReply_delivered _ false d)

theorem exec_rxFeed_start (ha : a.toNat < s.params.nsess) (hsot : t.getLsbD 7 = true) (heot : t.getLsbD 6 = false)
    (hcap : admits s.params.rxCap d.length = true) :
    exec (.rxFeed a (d ++ [t])) s
      = .next (s.afterRx a.toNat ⟨.accumulating, t.extractLsb' 0 5, !t.getLsbD 5, d⟩ [⟨0, []⟩]) :=
  exec_rxFeed_status ha rfl (feedSlot_start hsot heot hcap _)

theorem exec_rxFeed_accepted (ha : a.toNat < s.params.nsess) (hr : s.slot a.toNat = r) (h : (tailDecode t).Continues r)
    (hcap : admits s.params.rxCap (r.buf.length + d.length) = true) (heot : t.getLsbD 6 = false) :
    exec (.rxFeed a (d ++ [t])) s
      = .next (s.afterRx a.toNat ⟨.accumulating, r.tid, !r.exp, r.buf ++ d⟩ [⟨0, []⟩]) :=
  exec_rxFeed_status ha hr (h.feedSlot_accepted hcap heot)

theorem exec_rxFeed_other_toggle (ha : a.toNat < s.params.nsess) (hr : s.slot a.toNat = r) (hsot : t.getLsbD 7 = false)
    (hphase : r.phase ≠ .idle) (htid : t.extractLsb' 0 5 = r.tid) (htgl : t.getLsbD 5 ≠ r.exp) :
    exec (.rxFeed a (d ++ [t])) s = .next (s.afterRx a.toNat ⟨.idle, r.tid, r.exp, []⟩ [⟨0x11, []⟩]) :=
  exec_rxFeed_status ha hr (feedSlot_other_toggle hsot hphase htid htgl ..)

/-- The accepted last frame of a reception whose CRC verifies delivers all but the CRC. -/
theorem exec_rxFeed_delivers {q : Bytes} {hi lo : Byte} (ha : a.toNat < s.params.nsess) (hr : s.slot a.toNat = r)
    (h : (tailDecode t).Continues r) (hcap : admits s.params.rxCap (r.buf.length + d.length) = true)
    (heot : t.getLsbD 6 = true) (hbuf : r.buf ++ d = q ++ [hi, lo]) (hver : crcVerifies (q ++ [hi, lo]) = true) :
    exec (.rxFeed a (d ++ [t])) s = .next (s.afterRx a.toNat ⟨.idle, r.tid, !r.exp, []⟩
      [⟨responseWord 0x01 (BitVec.ofNat 8 r.tid.toNat) 0 1 (BitVec.ofNat 32 q.length), q⟩]) := by
  have hout := (h.feedSlot_last hcap heot).trans (hbuf ▸ feedComplete_of_verifies hver _ _)
  rw [exec_rxFeed ha hr hout, packReply_delivered, h.tid]
  rfl

theorem exec_rxFeed_mismatch (ha : a.toNat < s.params.nsess) (hr : s.slot a.toNat = r) (h : (tailDecode t).Continues r)
    (hcap : admits s.params.rxCap (r.buf.length + d.length) = true) (heot : t.getLsbD 6 = true)
    (hver : crcVerifies (r.buf ++ d) = false) :
    exec (.rxFeed a (d ++ [t])) s = .next (s.afterRx a.toNat ⟨.idle, r.tid, !r.exp, []⟩ [⟨0x13, []⟩]) :=
  exec_rxFeed_status ha hr ((h.feedSlot_last hcap heot).trans (feedComplete_of_not_verifies hver _ _))

end

/-- Settles O50: `OPC` 0x60 is RX.FEED's own, and the slot is looked at before the block. -/
theorem rxFeedRefusesBadSlotsAndEmptyFrames : Obligations.RxFeedRefusesBadSlotsAndEmptyFrames :=
  ⟨fun _ hopc => decode_of_fieldOpc (mn := .rxFeed) hopc,
    fun _ w s ha => (exec_rxFeed_of_badSlot ha w).trans (raise_badOperand s),
    fun _ s ha => (exec_rxFeed_nil ha).trans (raise_status .emptyFrame s)⟩

/-- Settles O51: the two outcomes of a start-of-transfer frame that is not refused. -/
theorem rxStartOfTransferBeginsAReception : Obligations.RxStartOfTransferBeginsAReception :=
  fun _ _ _ _ ha hsot => ⟨exec_rxFeed_single ha hsot, exec_rxFeed_start ha hsot⟩

/-- Settles O52: the refusals for capacity of a first frame and of a continuation frame. -/
theorem rxCapacityEndsTheReception : Obligations.RxCapacityEndsTheReception := by
  refine fun s a d t ha => ⟨fun hsot heot hcap => ?first, fun r hsot hr hphase htid htgl hcap => ?continuation⟩
  case first => exact exec_rxFeed_status ha rfl (feedSlot_start_full hsot heot hcap _)
  case continuation =>
    have hcont : (tailDecode t).Continues r := ⟨hsot, hphase, htid, htgl⟩
    exact exec_rxFeed_status ha (State.slot_eq_of_getElem? hr) (hcont.feedSlot_full hcap)

/-- Settles O53: an orphan writes back the slot it found; the two other refusals leave it idle. -/
theorem rxContinuationChecksInOrder : Obligations.RxContinuationChecksInOrder := by
  intro s a d t r ha hsot hr
  obtain rfl := State.slot_eq_of_getElem? hr
  split_ifs with hidle htid
  · rw [exec_rxFeed_status ha rfl (feedSlot_orphan hsot hidle ..), State.afterRx_slot]
    rfl
  · exact exec_rxFeed_status ha rfl (feedSlot_other_tid hsot hidle htid ..)
  · exact exec_rxFeed_other_toggle ha rfl hsot hidle (not_not.mp htid)

/-- Settles O54: the accepted frame that is not the last. -/
theorem rxContinuationIsAccepted : Obligations.RxContinuationIsAccepted :=
  fun _ _ _ _ _ ha hsot hr hphase htid htgl hcap heot =>
    exec_rxFeed_accepted ha (State.slot_eq_of_getElem? hr) ⟨hsot, hphase, htid, htgl⟩ hcap heot

/-- Settles O55: the last two bytes read as a number verify exactly where the residue is 0, and only then is the rest
delivered. -/
theorem rxCompletionChecksTheCrc : Obligations.RxCompletionChecksTheCrc := by
  intro s a d t r ha hsot hr hphase htid htgl hcap heot
  have hslot := State.slot_eq_of_getElem? hr
  have hcont : (tailDecode t).Continues r := ⟨hsot, hphase, htid, htgl⟩
  refine ⟨fun hshort => ?short, fun q hi lo hbuf => ⟨?residue, ?split⟩⟩
  case short => exact exec_rxFeed_mismatch ha hslot hcont hcap heot (crcVerifies_eq_false_of_short hshort)
  case residue =>
    rw [hbuf, ← crcVerifies_append_pair_iff, crcVerifies_iff]
    exact and_iff_right (by simp)
  case split =>
    simp only [← crcVerifies_append_pair_iff]
    split_ifs with hver
    · exact exec_rxFeed_delivers ha hslot hcont hcap heot hbuf hver
    · exact exec_rxFeed_mismatch ha hslot hcont hcap heot (hbuf ▸ Bool.not_eq_true _ ▸ hver)

/-- Settles O58: neither what `feedSlot` answers nor the state it is written to depends on the slot. -/
theorem rxStartOfTransferSupersedes : Obligations.RxStartOfTransferSupersedes := by
  intro s a d t v ha hsot
  have hsame := feedSlot_eq_of_sot (t := tailDecode t) hsot s.params.rxCap ((s.withSlot a.toNat v).slot a.toNat)
    (s.slot a.toNat) d
  rw [exec_rxFeed ha rfl rfl, exec_rxFeed (s := s.withSlot a.toNat v) ha rfl hsame, State.afterRx_withSlot]

/-- Settles O59: the first copy flips the toggle that the second copy must carry. -/
theorem rxDuplicateContinuationIsDetected : Obligations.RxDuplicateContinuationIsDetected := by
  intro s a d t r ha hsot heot hr hphase htid htgl hcap
  obtain ⟨hi, _⟩ := List.getElem?_eq_some_iff.mp hr
  have hfirst := exec_rxFeed_accepted ha (State.slot_eq_of_getElem? hr) ⟨hsot, hphase, htid, htgl⟩ hcap heot
  have hsecond := exec_rxFeed_other_toggle (d := d)
    (s := s.afterRx a.toNat ⟨.accumulating, r.tid, !r.exp, r.buf ++ d⟩ [⟨0, []⟩])
    ha (State.slot_afterRx hi _ _) hsot nofun htid (htgl.trans_ne (Bool.self_ne_not _))
  rw [runInstrs_two hfirst hsecond, State.afterRx_afterRx]
  rfl

/-! ### RX.RESET and RX.STATE -/

/-- Settles O56: `OPC` 0x61 is RX.RESET's own, and on a slot of the file it writes R260's values. -/
theorem rxResetClearsTheSlot : Obligations.RxResetClearsTheSlot := by
  refine ⟨fun _ hopc => decode_of_fieldOpc (mn := .rxReset) hopc, fun a s => ?_⟩
  split_ifs with ha
  · simp only [exec, execRxReset, slotOperand_eq_none.mpr ha, raise_badOperand]
  · simp only [exec, execRxReset, slotOperand_eq_some.mpr ⟨rfl, not_le.mp ha⟩]
    exact respond_ok _

theorem rxPhaseBit_eq_decide (p : RxPhase) : rxPhaseBit p = decide (p = .accumulating) := by
  cases p <;> rfl

/-- Settles O57: `OPC` 0x62 is RX.STATE's own, and on a slot of the file it answers the slot's registers as numbers. -/
theorem rxStateReadsTheSlot : Obligations.RxStateReadsTheSlot := by
  refine ⟨fun _ hopc => decode_of_fieldOpc (mn := .rxState) hopc, fun a s ha => ?_, fun a s r ha hr => ?_⟩
  · simp only [exec, execRxState, slotOperand_eq_none.mpr ha, raise_badOperand]
  · simp only [exec, execRxState, slotOperand_eq_some.mpr ⟨rfl, ha⟩, State.slot_eq_of_getElem? hr, rxPhaseBit_eq_decide,
      resultFlags_eq_ofNat, BitVec.ofNat_toNat]
    rfl

end Sys2Proof.Machine
end

section
/-! PROOFS. Reassembly inverts serialization (spec/46_reassembler.md R209). After `k` frames of a multi-frame transfer, none of
them the last, the slot holds the stream's first `k * M` bytes and expects frame `k`'s toggle; the last frame completes the
stream, whose CRC verifies. -/

namespace Sys2Proof.Machine

/-! ### The frames of a transfer, as the reassembler reads them -/

theorem tailDecode_frameTail (n tid k : Nat) :
    tailDecode (frameTail n tid k) = ⟨decide (k = 0), decide (k = n - 1), decide (k % 2 = 0), BitVec.ofNat 5 tid⟩ :=
  tailDecode_tailEncode ..

/-- Frame `k` goes on where the frames before it end. -/
theorem take_append_frameData (xs : Bytes) (m k : Nat) : xs.take (k * m) ++ frameData xs m k = xs.take ((k + 1) * m) := by
  rw [frameData, Nat.succ_mul, List.take_add]

/-- All the frames together are the whole stream. -/
theorem take_ceilDiv_mul {m : Nat} (hm : 1 ≤ m) (xs : Bytes) : xs.take (ceilDiv xs.length m * m) = xs :=
  List.take_of_length_le (not_lt.mp ((lt_ceilDiv_iff hm).not.mp (lt_irrefl _)))

/-- The CRC at the end of a multi-frame stream verifies (R171, R206). -/
theorem crcVerifies_multiStream (p : Bytes) (m : Nat) : crcVerifies (multiStream p m) = true := by
  rw [multiStream, digest, crcVerifies_append_pair, readDigest_digest]
  exact decide_eq_true rfl

/-! ### The slot between two frames -/

/-- What the slot holds after frames 0 to `k - 1` of the stream `xs` cut at `m`. -/
def slotAfterFrames (xs : Bytes) (m tid k : Nat) : RxSlot :=
  ⟨.accumulating, BitVec.ofNat 5 tid, decide (k % 2 = 0), xs.take (k * m)⟩

theorem continues_slotAfterFrames (xs : Bytes) (m n tid : Nat) {k : Nat} (hk : 1 ≤ k) :
    (tailDecode (frameTail n tid k)).Continues (slotAfterFrames xs m tid k) := by
  rw [tailDecode_frameTail]
  exact ⟨decide_eq_false (Nat.ne_of_gt hk), rfl, rfl, rfl⟩

theorem not_decide_even (k : Nat) : (!decide (k % 2 = 0)) = decide ((k + 1) % 2 = 0) := by
  rw [← decide_not, decide_eq_decide]
  omega

/-- A capacity that holds the stream holds what the slot and the next frame have of it. -/
theorem admits_slotAfterFrames {cap : Capacity} {xs : Bytes} (hcap : admits cap xs.length = true) (m tid k : Nat) :
    admits cap ((slotAfterFrames xs m tid k).buf.length + (frameData xs m k).length) = true := by
  have hbytes : (slotAfterFrames xs m tid k).buf ++ frameData xs m k = xs.take ((k + 1) * m) := take_append_frameData xs m k
  rw [← List.length_append, hbytes]
  exact admits_mono (List.length_take_le' ..) hcap

section
variable {s : State} {a : Byte} {xs : Bytes} {m n k : Nat}

/-- Frame 0 of a multi-frame transfer, on a slot in any state. -/
theorem exec_rxFeed_firstFrame (ha : a.toNat < s.params.nsess) (hcap : admits s.params.rxCap xs.length = true) (hn : 2 ≤ n)
    (tid : Nat) :
    exec (.rxFeed a (wireFrame xs m n tid 0)) s
      = .next (s.afterRx a.toNat (slotAfterFrames xs m tid 1) [⟨0, []⟩]) := by
  have htail := tailDecode_frameTail n tid 0
  have heot : (tailDecode (frameTail n tid 0)).eot = false := by
    rw [htail]
    exact decide_eq_false (by omega)
  have hdata : admits s.params.rxCap (frameData xs m 0).length = true :=
    admits_mono (frameData_zero xs m ▸ List.length_take_le' ..) hcap
  refine (exec_rxFeed_status ha rfl (feedSlot_start (by rw [htail]; rfl) heot hdata _)).trans ?_
  rw [htail, frameData_zero, slotAfterFrames, Nat.one_mul]
  rfl

/-- A frame between the first and the last. -/
theorem exec_rxFeed_nextFrame {tid : Nat} (ha : a.toNat < s.params.nsess) (hcap : admits s.params.rxCap xs.length = true)
    (hslot : s.slot a.toNat = slotAfterFrames xs m tid k) (hk : 1 ≤ k) (hlast : k + 1 < n) :
    exec (.rxFeed a (wireFrame xs m n tid k)) s
      = .next (s.afterRx a.toNat (slotAfterFrames xs m tid (k + 1)) [⟨0, []⟩]) := by
  have heot : (tailDecode (frameTail n tid k)).eot = false := by
    rw [tailDecode_frameTail]
    exact decide_eq_false (by omega)
  have hnext : (⟨.accumulating, BitVec.ofNat 5 tid, !decide (k % 2 = 0), xs.take (k * m) ++ frameData xs m k⟩ : RxSlot)
      = slotAfterFrames xs m tid (k + 1) := by
    rw [take_append_frameData, not_decide_even, slotAfterFrames]
  rw [← hnext]
  exact exec_rxFeed_accepted ha hslot (continues_slotAfterFrames xs m n tid hk) (admits_slotAfterFrames hcap m tid k) heot

/-- The frames before the last are answered OK, one after the other (R209). -/
theorem runInstrs_framesBeforeLast (ha : a.toNat < s.params.nsess) (hi : a.toNat < s.rx.length)
    (hcap : admits s.params.rxCap xs.length = true) (tid : Nat) (hk : 1 ≤ k) (hlast : k < n) :
    runInstrs (((List.range k).map (wireFrame xs m n tid)).map (.rxFeed a)) s
      = .next (s.afterRx a.toNat (slotAfterFrames xs m tid k) (List.replicate k ⟨0, []⟩)) := by
  induction k, hk using Nat.le_induction with
  | base => exact runInstrs_one (exec_rxFeed_firstFrame ha hcap hlast tid)
  | succ k hk ih =>
    have hnext := exec_rxFeed_nextFrame (m := m) (tid := tid)
      (s := s.afterRx a.toNat (slotAfterFrames xs m tid k) (List.replicate k ⟨0, []⟩))
      ha hcap (State.slot_afterRx hi _ _) hk hlast
    rw [List.range_succ, List.map_append, List.map_append, runInstrs_append (ih (by omega)), List.replicate_succ',
      ← State.afterRx_afterRx]
    exact runInstrs_one hnext

end

/-! ### The round trip -/

section
variable {s : State} {a : Byte} {p : Bytes} {m : Nat}

/-- The one frame of a single-frame transfer is delivered at once. -/
theorem runInstrs_singleFrame (ha : a.toNat < s.params.nsess) (hle : p.length ≤ m) (tid : Nat) :
    runInstrs ((wireFrames p m tid).map (.rxFeed a)) s = .next (s.afterRx a.toNat ⟨.idle, BitVec.ofNat 5 tid, false, []⟩
      [⟨responseWord 0x01 (BitVec.ofNat 8 (tid % 32)) 0 0 (BitVec.ofNat 32 (txStream p m).bytes.length),
        (txStream p m).bytes⟩]) := by
  obtain ⟨hsot, heot, htgl, hmod⟩ := tailEncode_fields true true true tid
  have htid : (tailEncode true true true tid).extractLsb' 0 5 = BitVec.ofNat 5 tid :=
    congrArg Tail.tid (tailDecode_tailEncode true true true tid)
  have hbyte : BitVec.ofNat 8 (224 + tid % 32) = tailEncode true true true tid := (tailEncode_eq_ofNat true true true tid).symm
  rw [wireFrames_of_le tid hle, hbyte]
  refine runInstrs_one ((exec_rxFeed_single ha hsot heot).trans ?_)
  rw [htid, htgl, hmod]
  rfl

/-- The frames of a multi-frame transfer: OK for each but the last, and then the payload with its padding. -/
theorem runInstrs_multiFrames (ha : a.toNat < s.params.nsess) (hi : a.toNat < s.rx.length) (hm : 1 ≤ m) (hlt : m < p.length)
    (hcap : admits s.params.rxCap (multiStream p m).length = true) (tid : Nat) {j : Nat}
    (hj : ceilDiv (multiStream p m).length m = j + 1) :
    runInstrs ((wireFrames p m tid).map (.rxFeed a)) s = .next (s.afterRx a.toNat
      ⟨.idle, BitVec.ofNat 5 tid, decide ((j + 1) % 2 = 0), []⟩
      (List.replicate j ⟨0, []⟩
        ++ [⟨responseWord 0x01 (BitVec.ofNat 8 (tid % 32)) 0 1
              (BitVec.ofNat 32 (p ++ rep padByte (multiPad p.length m)).length), p ++ rep padByte (multiPad p.length m)⟩])) := by
  have hpos : 1 ≤ j := by
    have htwo := two_le_ceilDiv_multiStream hm hlt
    omega
  have heot : (tailDecode (frameTail (j + 1) tid j)).eot = true := by
    rw [tailDecode_frameTail]
    exact decide_eq_true rfl
  have hbuf : (slotAfterFrames (multiStream p m) m tid j).buf ++ frameData (multiStream p m) m j = multiStream p m := by
    rw [slotAfterFrames, take_append_frameData, ← hj, take_ceilDiv_mul hm]
  have hlast := exec_rxFeed_delivers
    (s := s.afterRx a.toNat (slotAfterFrames (multiStream p m) m tid j) (List.replicate j ⟨0, []⟩))
    ha (State.slot_afterRx hi _ _) (continues_slotAfterFrames (multiStream p m) m (j + 1) tid hpos)
    (admits_slotAfterFrames hcap m tid j) heot hbuf (crcVerifies_multiStream p m)
  have htid : (BitVec.ofNat 5 tid).toNat = tid % 32 := BitVec.toNat_ofNat tid 5
  rw [wireFrames, txStream_of_lt hlt, hj, List.range_succ, List.map_append, List.map_append,
    runInstrs_append (runInstrs_framesBeforeLast ha hi hcap tid hpos j.lt_succ_self), ← State.afterRx_afterRx, ← htid,
    ← not_decide_even]
  exact runInstrs_one hlast

end

/-- Settles O60: a single-frame transfer is its one frame, and a multi-frame one ends with the frame that completes its
stream. -/
theorem reassemblyInvertsSerialization : Obligations.ReassemblyInvertsSerialization := by
  rintro s a p m tid _ ha hi hm rfl hcap
  obtain hle | hlt := le_or_gt p.length m
  · rw [runInstrs_singleFrame ha hle, txStream_of_le hle, List.length_append, length_rep]
    simp [State.afterRx, padByte]
  · rw [txStream_of_lt hlt] at hcap
    obtain ⟨j, hj⟩ := Nat.exists_eq_add_one.mpr (Nat.zero_lt_of_lt (two_le_ceilDiv_multiStream hm hlt))
    rw [runInstrs_multiFrames ha hi hm hlt hcap tid hj, txStream_of_lt hlt, hj, List.length_append, length_rep]
    simp [State.afterRx, padByte]

end Sys2Proof.Machine
end

section
/-! PROOFS. Errors are precise (spec/60_exceptions.md R232, spec/46_reassembler.md R201), and the ends of a run: the reset state
(spec/70_reset_and_hazards.md R261) and the empty port (R249). A command that neither succeeds nor discards a reception answers
from the state it was given; only RX.FEED discards, and only in the slot named in `A`. -/

namespace Sys2Proof.Machine

/-! ### The empty port and the reset state -/

/-- Settles O11: of all that a step can do, only waiting needs no command. -/
theorem emptyPortHoldsTheState : Obligations.EmptyPortHoldsTheState := by
  intro s hempty
  obtain ⟨_, hheld⟩ | ⟨_, _, _, hcmds, _⟩ | ⟨_, _, _, hcmds, _⟩ := step_cases s
  · exact hheld
  · cases hempty.symm.trans hcmds
  · cases hempty.symm.trans hcmds

theorem State.inv_resetWith {p : Params} (h : p.legal = true) : (State.resetWith p).Inv := by
  refine ⟨h, List.length_replicate, Ser.inv_reset _, Rf.inv_reset _, fun r hr => ?_⟩
  obtain rfl := List.eq_of_mem_replicate hr
  exact RxSlot.inv_of_empty _ rfl

/-- Settles O16: the reset state meets the invariant unit by unit, and the parameters of `State.reset` are legal. -/
theorem invariantHoldsAtReset : Obligations.InvariantHoldsAtReset :=
  ⟨fun _ => State.inv_resetWith, State.inv_resetWith (by decide)⟩

/-! ### The reception discards -/

/-- The status ends a reception, from a command of the opcode `opc` (R232): CAPACITY_EXCEEDED does so only from RX.FEED. -/
abbrev Status.Discards (st : Status) (opc : Byte) : Prop :=
  st = .toggleViolation ∨ st = .transferIdMismatch ∨ st = .crcMismatch ∨ (st = .capacityExceeded ∧ opc = 0x60)

/-- The four discards, read off the response (R77). -/
theorem discards_iff_packReply_st (q : Reply) (opc : Byte) :
    q.st.Discards opc ↔ (packReply q).st = 0x11 ∨ (packReply q).st = 0x12 ∨ (packReply q).st = 0x13
      ∨ ((packReply q).st = 0x14 ∧ opc = 0x60) := by
  rw [packReply_st]
  cases q.st <;> simp [Status.Discards, statusCode]

/-- The reply and the state that end a command of the opcode `opc`, begun in `s`: a success, with any state; a
status alone, with nothing written; or a discard, which is RX.FEED's and leaves the slot named in `a` idle and empty. -/
inductive PreciseReply (opc a : Byte) (s : State) : Reply → State → Prop where
  | success {q : Reply} (hst : q.st = .ok ∨ q.st = .delivered) (t : State) : PreciseReply opc a s q t
  | refusal {st : Status} (hst : ¬ st.Discards opc) : PreciseReply opc a s { st := st } s
  | discard {st : Status} {v : RxSlot} (hopc : opc = 0x60) (hst : st.Discards opc) (hphase : v.phase = .idle)
      (hbuf : v.buf = []) : PreciseReply opc a s { st := st } (s.withSlot a.toNat v)

/-- The outcome `o`, reached from `s`, is that of a precise reply. -/
def AnswersPrecisely (opc a : Byte) (s : State) (o : Host.Outcome State Fault Refusal) : Prop :=
  ∃ (q : Reply) (t : State), PreciseReply opc a s q t ∧ o = respond q t

section
variable {opc a : Byte} {s : State}

theorem respond_ok_answersPrecisely {q : Reply} (h : q.st = .ok) (t : State) : AnswersPrecisely opc a s (respond q t) :=
  ⟨q, t, .success (.inl h) t, rfl⟩

theorem raise_answersPrecisely {st : Status} (h : ¬ st.Discards opc) : AnswersPrecisely opc a s (raise st s) :=
  ⟨_, s, .refusal h, rfl⟩

end

/-! ### One frame against the slot named in `A` -/

/-- A completed reception is delivered or discarded (R206, R208). -/
theorem feedComplete_precise (a : Byte) (s : State) (r : RxSlot) (b : Bytes) (t : Tail) :
    PreciseReply 0x60 a s (feedComplete r b t).2 (s.withSlot a.toNat (feedComplete r b t).1) := by
  unfold feedComplete
  split
  · exact .success (.inr rfl) _
  · exact .discard rfl (by decide) rfl rfl

/-- Of the frames not accepted, an orphan leaves its slot as it was and the others discard the reception (R204, R207). -/
theorem feedSlot_precise (cap : Capacity) (a : Byte) (s : State) (d : Bytes) (t : Tail) :
    PreciseReply 0x60 a s (feedSlot cap (s.slot a.toNat) d t).2
      (s.withSlot a.toNat (feedSlot cap (s.slot a.toNat) d t).1) := by
  obtain ⟨_, _, h⟩ | ⟨_, _, _, h⟩ | ⟨_, _, _, h⟩ | ⟨_, _, h⟩ | ⟨_, _, _, h⟩ | ⟨_, _, _, _, h⟩ | ⟨_, _, _, _, _, h⟩
    | ⟨_, _, _, _, _, _, h⟩ | ⟨_, _, _, _, _, _, h⟩ := feedSlot_cases cap (s.slot a.toNat) d t <;> rw [h]
  · exact .success (.inr rfl) _
  · exact .discard rfl (by decide) rfl rfl
  · exact .success (.inl rfl) _
  · rw [State.withSlot_slot]
    exact .refusal (by decide)
  · exact .discard rfl (by decide) rfl rfl
  · exact .discard rfl (by decide) rfl rfl
  · exact .discard rfl (by decide) rfl rfl
  · exact .success (.inl rfl) _
  · exact feedComplete_precise a s _ _ t

theorem execRxFeed_answersPrecisely (a : Byte) (w : Bytes) (s : State) :
    AnswersPrecisely 0x60 a s (execRxFeed a w s) := by
  unfold execRxFeed
  split
  · exact raise_answersPrecisely (by decide)
  next i hi =>
    obtain ⟨rfl, _⟩ := slotOperand_eq_some.mp hi
    split
    · exact raise_answersPrecisely (by decide)
    · exact ⟨_, _, feedSlot_precise _ a s _ _, rfl⟩

/-! ### The commands -/

/-- Every command answers precisely: RX.FEED as its slot does, and any other with an OK or a status raised before a write. -/
theorem exec_readOperands_answersPrecisely (c : Command) (mn : Mnemonic) (s : State) :
    AnswersPrecisely (opcodeOf mn) (fieldA c.word) s (exec (readOperands c mn) s) := by
  cases mn with
  | nop | reset | crcInit | crcAddb | crcAdd | crcRead | tailEnc | tailDec | serAbort =>
    exact respond_ok_answersPrecisely rfl _
  | dlcCeil =>
    simp only [readOperands, exec, execDlcCeil]
    split
    · exact respond_ok_answersPrecisely rfl _
    · exact raise_answersPrecisely (by decide)
  | padReq | rfStart | rfEnd | serStart | serSeal | rxReset | rxState =>
    simp only [readOperands, exec, execPadReq, execRfStart, execRfEnd, execSerStart, execSerSeal, execRxReset, execRxState]
    split
    · exact raise_answersPrecisely (by decide)
    · exact respond_ok_answersPrecisely rfl _
  | rfPush | serFrag | serNext =>
    simp only [readOperands, exec, execRfPush, execSerFrag, execSerNext]
    split_ifs
    · exact raise_answersPrecisely (by decide)
    · exact raise_answersPrecisely (by decide)
    · exact respond_ok_answersPrecisely rfl _
  | rfNext =>
    simp only [readOperands, exec, execRfNext]
    split_ifs
    · exact raise_answersPrecisely (by decide)
    · exact respond_ok_answersPrecisely rfl _
    · exact raise_answersPrecisely (by decide)
    · exact respond_ok_answersPrecisely rfl _
    · exact raise_answersPrecisely (by decide)
  | rxFeed => exact execRxFeed_answersPrecisely _ _ s

/-- A command that decodes is the one its opcode names, with its operands read from its fields (R75). -/
theorem eq_readOperands_of_decode {c : Command} {i : Instr} (h : decode c = .ok i) :
    ∃ mn, fieldOpc c.word = opcodeOf mn ∧ i = readOperands c mn := by
  cases hmn : mnemonicOf (fieldOpc c.word) with
  | none => simp [decode, hmn] at h
  | some mn =>
    exact ⟨mn, (opcodeOf_of_mnemonicOf _ _ hmn).symm, Except.ok.inj (h.symm.trans (decode_of_mnemonicOf hmn))⟩

/-- The step answers the waiting command precisely, be it legal or not (R76, R232). -/
theorem step_answersPrecisely {s : State} {c : Command} {rest : List Command} (h : s.cmds = c :: rest) :
    AnswersPrecisely (fieldOpc c.word) (fieldA c.word) { s with cmds := rest } (step s) := by
  obtain ⟨i, hdecode, hstep⟩ | ⟨_, _, hstep⟩ := step_of_waiting h
  · obtain ⟨mn, hopc, rfl⟩ := eq_readOperands_of_decode hdecode
    rw [hstep, hopc]
    exact exec_readOperands_answersPrecisely c mn _
  · rw [hstep]
    exact raise_answersPrecisely (by simp [Status.Discards])

/-- Settles O15: the three ends of a precise reply, told apart by the response's status code. -/
theorem errorsArePrecise : Obligations.ErrorsArePrecise := by
  intro s t c rest r hcmds hstep hresps hok hdel
  obtain ⟨q, u, hprecise, hrespond⟩ := step_answersPrecisely hcmds
  obtain rfl := respond_next.mp (hrespond.symm.trans hstep)
  obtain ⟨_, hr⟩ := List.append_inj' hresps rfl
  obtain rfl := List.singleton_inj.mp hr
  cases hprecise with
  | success hst =>
    rw [packReply_st] at hok hdel
    obtain hst | hst := hst
    · exact absurd (by rw [hst]; rfl) hok
    · exact absurd (by rw [hst]; rfl) hdel
  | refusal hst =>
    rw [if_neg ((discards_iff_packReply_st _ _).not.mp hst)]
    rfl
  | discard hopc hst hphase hbuf =>
    rw [if_pos ((discards_iff_packReply_st _ _).mp hst)]
    exact ⟨hopc, _, hphase, hbuf, rfl⟩

end Sys2Proof.Machine
end
